-- ==== Sys2Proof/Word.lean ====
section
/-! DEFINITION. The word types of the TH4612's link and tables, and the index types of its conventions
(00_scope.md, "Numbering"). -/

namespace Sys2Proof

/-- One byte on the link or in the image. -/
abbrev Byte := BitVec 8

/-- A two-byte link value, sent least significant byte first (00_scope.md, "Byte order"). -/
abbrev Half := BitVec 16

/-- Circuits C0 to C15. -/
abbrev CircuitId := Fin 16

/-- Sense inputs S0 to S11. -/
abbrev InputId := Fin 12

/-- Bindings B0 to B15. -/
abbrev BindingId := Fin 16

/-- Gauge channels G0 to G2, and sender inputs A0 to A2. -/
abbrev ChannelId := Fin 3

/-- Demand slots 0 to 63 (R1). -/
abbrev SlotId := Fin 64

/-- The status set: the twelve conditions of R161, member n at bit n (R166). Members 12 to 15 of the link's
16-bit set are never set, so they have no bit here. -/
abbrev StatusSet := BitVec 12

end Sys2Proof
end

