-- ==== Sys2Proof/Syntax.lean ====
section
/-! DEFINITION. The commands of the block: one constructor per row of spec/opcode_table.json, in the table's order.
The parameters of the link commands are the raw values of their parameter bytes (R166, "Commands"), so that every
BAD-PARAMETER of the spec can be asked for. The parameters of the events from the car are the values sampled. -/

namespace Sys2Proof

/-- Cells of one page that do not take their value at a page operation: offset in the page and the byte found
there (log 8). The empty list is a page operation that takes. -/
abbrev PageDefects := List (Nat × Byte)

inductive Instr where
  /-- POWER_ON_RESET (R174), with the straps ADDR1, ADDR0 as they stand. -/
  | powerOnReset (straps : BitVec 2)
  /-- WRITE_FRAME (R149): the address byte's 7 bits and all the bytes the master wrote after it. -/
  | writeFrame (address : BitVec 7) (bytes : List Byte)
  /-- ADDRESS_MATCH_WAKE (R136): an address byte on the bus, with its direction (`read`). -/
  | addressMatchWake (address : BitVec 7) (read : Bool)
  /-- PLACE (R8). -/
  | place (circuit intent : Byte) (level : Half) (priority : Byte) (hold : Half) (gated : Byte)
  /-- AMEND (R13). -/
  | amend (handle : Half) (selection : Byte) (level : Half) (priority : Byte) (hold : Half)
  /-- RETIRE (R14). -/
  | retire (handle : Half)
  /-- RETIRE_HOST_ALL (R15). -/
  | retireHostAll
  /-- READ_DEMAND (R21). -/
  | readDemand (handle : Half)
  /-- LIST_CIRCUIT (R21). -/
  | listCircuit (circuit : Byte)
  /-- READ_CIRCUIT (R44). -/
  | readCircuit (circuit : Byte)
  /-- CLEAR_FAULT (R43). -/
  | clearFault (circuit : Byte)
  /-- FLASH (R67). -/
  | flash (lanes count : Byte)
  /-- FLASH_STOP (R68). -/
  | flashStop
  /-- LAMP_TEST (R153). -/
  | lampTest (duration : Byte)
  /-- GAUGE_DIRECT (R102). -/
  | gaugeDirect (channel : Byte) (reading : Half)
  /-- GAUGE_RELEASE (R103). -/
  | gaugeRelease (channel : Byte)
  /-- READ_GAUGE (R104). -/
  | readGauge (channel : Byte)
  /-- READ_SUPPLY (R144). -/
  | readSupply
  /-- SET_WINDOW (R155). -/
  | setWindow (table first last : Byte)
  /-- WRITE_STREAM (R157). -/
  | writeStream (entries : List Byte)
  /-- READ_STREAM (R156). -/
  | readStream
  /-- READ_STATUS (R163). -/
  | readStatus
  /-- ACK_STATUS (R164). -/
  | ackStatus (conditions : Half)
  /-- SAVE (R170). -/
  | save
  /-- LOCK_STORE (R171). -/
  | lockStore
  /-- ERASE_STORE (R172). -/
  | eraseStore
  /-- RESET (R154). -/
  | reset
  /-- READ_RESULT (R151). -/
  | readResult
  /-- SENSE_SAMPLE (R47): the pin levels of S0 to S11, bit n HIGH for Sn. -/
  | senseSample (levels : BitVec 12)
  /-- INPUT_WAKE (R49): a raw change of level on one input. -/
  | inputWake (input : InputId)
  /-- HOLD_EXPIRY (R18): every hold that has run out. -/
  | holdExpiry
  /-- INRUSH_EXPIRY (R31). -/
  | inrushExpiry (circuit : CircuitId)
  /-- CURRENT_MEASUREMENT (R37, R38): the mean current over the 20 ms before, in 10 mA units, rounded down. -/
  | currentMeasurement (circuit : CircuitId) (mean : Nat)
  /-- RETRY_EXPIRY (R34). -/
  | retryExpiry (circuit : CircuitId)
  /-- QUIET_TIME_EXPIRY (R36). -/
  | quietTimeExpiry (circuit : CircuitId)
  /-- RAMP_STEP (R121). -/
  | rampStep (circuit : CircuitId)
  /-- ON_PHASE_EXPIRY (R76). -/
  | onPhaseExpiry
  /-- OFF_PHASE_EXPIRY (R77). -/
  | offPhaseExpiry
  /-- SYNC_LINE_FALL (R82). -/
  | syncLineFall
  /-- SYNC_LINE_RISE (R83). -/
  | syncLineRise
  /-- WAIT_SYNC_TIMEOUT (R83). -/
  | waitSyncTimeout
  /-- TICK_PULSE_END (R84). -/
  | tickPulseEnd
  /-- SENDER_CONVERSION (R90): the code 0 to 4095 of one channel's sender input. -/
  | senderConversion (channel : ChannelId) (code : Nat)
  /-- GAUGE_TICK (R91). -/
  | gaugeTick (channel : ChannelId)
  /-- SUPPLY_SAMPLE (R130 to R132): VSENSE and CSENSE in millivolts. -/
  | supplySample (vsense csense : Nat)
  /-- EVALUATION_TIMER_EXPIRY (R141). -/
  | evaluationTimerExpiry
  /-- SLEEP_TIMER_EXPIRY (R135). -/
  | sleepTimerExpiry
  /-- SAVE_PAGE_PROGRAMMED (R170). -/
  | savePageProgrammed (defects : PageDefects)
  /-- SAVE_VERIFY_END (R170). -/
  | saveVerifyEnd
  /-- ERASE_PAGE_ERASED (R172). -/
  | erasePageErased (defects : PageDefects)
  /-- POWER_LOSS_OR_RESET_ASSERTED (R174). -/
  | powerLossOrResetAsserted
  deriving DecidableEq, Repr

end Sys2Proof
end

