-- ==== Sys2Proof/Decode.lean ====
section
/-! DEFINITION. The command that a word of the opcode table's bits spells. No row of spec/opcode_table.json gives bits:
the commands are frames and events, not words. The frames of R166 are in Machine/FrameCodec.lean. -/

namespace Sys2Proof

/-- None: no row gives bits. -/
def decodeTableWord (_nbits _w : Nat) : Option Instr := none

end Sys2Proof
end

