-- ==== Sys2Proof/Machine/Memory.lean ====
section
/-! DEFINITION. The addressed memory of the part: the non-volatile image and the program buffer (R167), as one
canonical list of (address, byte) pairs. -/

namespace Sys2Proof.Machine

open Sys2Proof

/-- Cells in strictly rising order of address, none holding what an unlisted address reads as. -/
abbrev Memory := List Host.Cell

/-- R167: "An erased page reads 0xFF in every byte." -/
def Memory.blankByte : Byte := 0xFF

/-- The byte at an address. -/
def Memory.read : Memory → Nat → Byte
  | [], _ => Memory.blankByte
  | (b, v) :: m, a => if b = a then v else Memory.read m a

/-- Writes one byte. Writing the blank byte removes the cell, so that equal memories are equal lists. -/
def Memory.write : Memory → Nat → Byte → Memory
  | [], a, v => if v = Memory.blankByte then [] else [(a, v)]
  | (b, w) :: m, a, v =>
    if b < a then (b, w) :: Memory.write m a v
    else if b = a then (if v = Memory.blankByte then m else (a, v) :: m)
    else (if v = Memory.blankByte then (b, w) :: m else (a, v) :: (b, w) :: m)

/-- The canonical form: addresses strictly rising, no listed blank byte. -/
abbrev Memory.wf (m : Memory) : Prop :=
  List.Pairwise (fun p q => p.1 < q.1) m ∧ ∀ p ∈ m, p.2 ≠ Memory.blankByte

/-- The cells of a run of bytes from an address on. -/
def Memory.ofBytes : Nat → List Byte → Memory
  | _, [] => []
  | a, v :: vs =>
    if v = Memory.blankByte then Memory.ofBytes (a + 1) vs else (a, v) :: Memory.ofBytes (a + 1) vs

/-- `len` bytes from an address on. -/
def Memory.bytes (m : Memory) : Nat → Nat → List Byte
  | _, 0 => []
  | a, len + 1 => m.read a :: Memory.bytes m (a + 1) len

/-- The cells below `lo`, then those of `src` from `lo` to below `hi`, then those from `hi` on: one range of the
memory replaced by that of another. -/
def Memory.copyRange (m src : Memory) (lo hi : Nat) : Memory :=
  m.filter (fun p => decide (p.1 < lo)) ++ src.filter (fun p => decide (lo ≤ p.1 ∧ p.1 < hi)) ++
    m.filter (fun p => decide (hi ≤ p.1))

/-- Writes listed bytes of one range, each at `lo` plus its offset; an offset at or past `len` is no cell of it. -/
def Memory.writeCells (m : Memory) (lo len : Nat) : List (Nat × Byte) → Memory
  | [] => m
  | (i, v) :: cells => Memory.writeCells (if i < len then m.write (lo + i) v else m) lo len cells

end Sys2Proof.Machine
end

