-- ==== Sys2Proof/Machine/Tables.lean ====
section
/-! DEFINITION. The configuration tables: the record of one entry of each writable table, the live configuration
that holds them all, and the factory defaults of R173. -/

namespace Sys2Proof.Machine

open Sys2Proof

/-- What hangs on an output (R25). -/
inductive Kind where
  | none | filament | led | motor | gauge
  deriving DecidableEq, Repr

/-- The static part of a circuit record (R25): one CIRCUIT entry. -/
structure CircuitCfg where
  rated : Nat
  trip : Nat
  kind : Kind
  cls : Nat
  inrushFactor : Nat
  inrushTime : Nat
  lampOut : Nat
  retryLimit : Nat
  lampTest : Bool
  deriving DecidableEq, Repr

/-- The two lanes (R70). -/
inductive Side where
  | left | right
  deriving DecidableEq, Repr

/-- A lane set (R65). -/
inductive LaneSet where
  | left | right | both
  deriving DecidableEq, Repr

/-- What a binding does with its condition, with its target (R51). -/
inductive Action where
  | whileOn (target : CircuitId)
  | toggle (target : CircuitId)
  | timed (target : CircuitId)
  | flashWhile (lanes : LaneSet)
  | flashToggle (lanes : LaneSet)
  deriving DecidableEq, Repr

/-- One BINDING entry (R51). The levels are `true` for ACTIVE. -/
structure BindingCfg where
  enable : Bool
  primary : InputId
  primaryActive : Bool
  second : Option InputId
  secondActive : Bool
  action : Action
  level : Nat
  priority : Nat
  hold : Nat
  gated : Bool
  deriving DecidableEq, Repr

/-- One LANE entry (R70). -/
structure LaneCfg where
  members : List CircuitId
  level : Nat
  priority : Nat
  deriving DecidableEq, Repr

/-- The tick modes (R73, R84). -/
inductive TickMode where
  | off | pulse | follow
  deriving DecidableEq, Repr

/-- The FLASH entry (R73). -/
structure FlashCfg where
  onTime : Nat
  offTime : Nat
  fast : Bool
  sync : Bool
  tick : TickMode
  deriving DecidableEq, Repr

/-- One GAUGE entry (R87). -/
structure GaugeCfg where
  enable : Bool
  rangeHigh : Bool
  warnEnable : Bool
  warnAbove : Bool
  sender : ChannelId
  drive : CircuitId
  openThr : Nat
  shortThr : Nat
  damping : Nat
  stabilised : Nat
  holdTime : Nat
  senderPoints : Nat
  drivePoints : Nat
  warnThr : Nat
  hysteresis : Nat
  warnDelay : Nat
  warnCircuit : CircuitId
  warnPriority : Nat
  deriving DecidableEq, Repr

/-- One point of a curve (R110). -/
structure Point where
  x : Nat
  y : Nat
  deriving DecidableEq, Repr

/-- The FAN entry (R117). -/
structure FanCfg where
  count : Nat
  steps : Vector Nat 4
  start : Nat
  rate : Nat
  stall : Nat
  deriving DecidableEq, Repr

/-- The installations the part runs (R129). -/
inductive SystemVoltage where
  | six | twelve
  deriving DecidableEq, Repr

/-- The BUDGET entry (R129). -/
structure BudgetCfg where
  system : SystemVoltage
  dynamo : Nat
  battery : Nat
  park : Nat
  low : Nat
  critical : Nat
  derate : Nat
  margin : Nat
  delay : Nat
  chargeThr : Nat
  lamp : Option CircuitId
  deriving DecidableEq, Repr

/-- The LINK entry (R46, R147, R148, R162). Bit n of `activeHigh`: Sn is active HIGH. -/
structure LinkCfg where
  activeHigh : BitVec 12
  debounce : Nat
  ignition : InputId
  base : Nat
  generalCall : Bool
  mask : StatusSet
  deriving DecidableEq, Repr

/-- The live configuration: every writable table (R167's list, in ascending order of table code). -/
structure LiveConfig where
  circuits : Vector CircuitCfg 16
  bindings : Vector BindingCfg 16
  lanes : Vector LaneCfg 2
  flash : FlashCfg
  gauges : Vector GaugeCfg 3
  sender : Vector (Vector Point 12) 3
  drive : Vector (Vector Point 8) 3
  fan : FanCfg
  budget : BudgetCfg
  link : LinkCfg
  deriving DecidableEq, Repr

/-- The index of a lane's entry: LEFT then RIGHT (R166). -/
def Side.index : Side → Fin 2
  | .left => 0
  | .right => 1

/-- The entry of a lane. -/
def LiveConfig.lane (cfg : LiveConfig) (side : Side) : LaneCfg := cfg.lanes[side.index]

/-- The circuit a demand action places on; none for the flash actions (R51). -/
def Action.circuit? : Action → Option CircuitId
  | .whileOn c | .toggle c | .timed c => some c
  | .flashWhile _ | .flashToggle _ => none

/-- FLASH-WHILE and FLASH-TOGGLE, the flash actions (R56). -/
def Action.isFlash (a : Action) : Bool := a.circuit?.isNone

/-! ### Factory defaults (R173) -/

/-- R173, CIRCUIT. -/
def factoryCircuit : CircuitCfg :=
  ⟨0, 0, .none, 0, 1, 0, 50, 3, false⟩

/-- R63, R173, BINDING: disabled, action WHILE, target C0, S0 at ACTIVE, no second input. The spec gives the second level
no factory value; INACTIVE is the choice of the model (log 36). -/
def factoryBinding : BindingCfg :=
  ⟨false, 0, true, none, false, .whileOn 0, 0, 0, 1, false⟩

/-- R70, LANE. -/
def factoryLane : LaneCfg := ⟨[], 1000, 12⟩

/-- R73, FLASH. -/
def factoryFlash : FlashCfg := ⟨350, 350, true, false, .off⟩

/-- R87, GAUGE: A0 and C13 for G0, A1 and C14 for G1, A2 and C15 for G2. -/
def factoryGauge (sender : ChannelId) (drive : CircuitId) : GaugeCfg :=
  { enable := false, rangeHigh := false, warnEnable := false, warnAbove := false, sender := sender,
    drive := drive, openThr := 985, shortThr := 5, damping := 0, stabilised := 5000, holdTime := 50,
    senderPoints := 2, drivePoints := 2, warnThr := 0, hysteresis := 0, warnDelay := 0, warnCircuit := 0,
    warnPriority := 11 }

/-- R87: (0, 0) and (16383, 1000), every further point (0, 0). -/
def factorySender : Vector Point 12 := (Vector.replicate 12 ⟨0, 0⟩).set 1 ⟨16383, 1000⟩

/-- R87: (0, 0) and (1000, 1000), every further point (0, 0). -/
def factoryDrive : Vector Point 8 := (Vector.replicate 8 ⟨0, 0⟩).set 1 ⟨1000, 1000⟩

/-- R117, FAN. -/
def factoryFan : FanCfg := ⟨4, #v[250, 500, 750, 1000], 400, 100, 0⟩

/-- R129, BUDGET. -/
def factoryBudget : BudgetCfg := ⟨.six, 2200, 1200, 400, 900, 800, 500, 50, 20, 0, none⟩

/-- R46, R147, R166, LINK. -/
def factoryLink : LinkCfg := ⟨BitVec.allOnes 12, 4, 0, 0x2C, false, BitVec.allOnes 12⟩

/-- The factory defaults of R173, one fixed configuration. -/
def factoryConfig : LiveConfig where
  circuits := Vector.replicate 16 factoryCircuit
  bindings := Vector.replicate 16 factoryBinding
  lanes := Vector.replicate 2 factoryLane
  flash := factoryFlash
  gauges := #v[factoryGauge 0 13, factoryGauge 1 14, factoryGauge 2 15]
  sender := Vector.replicate 3 factorySender
  drive := Vector.replicate 3 factoryDrive
  fan := factoryFan
  budget := factoryBudget
  link := factoryLink

end Sys2Proof.Machine
end

