-- ==== Sys2Proof/Machine/Blocks.lean ====
section
/-! DEFINITION. The working state of the eight blocks as plain data, one record for each block (00_scope.md, "Block
overview"). Times are in ms on the part's clock; a running timer is held as the time at which it runs out. -/

namespace Sys2Proof.Machine

open Sys2Proof

/-! ### Demand Table -/

/-- The owner of a demand (R3). -/
inductive Source where
  | host
  | binding (n : BindingId)
  | lane (side : Side)
  | warning (g : ChannelId)
  | charge
  | test
  deriving DecidableEq, Repr

/-- What a demand asks (R2). -/
inductive Intent where
  | on | off | followLane
  deriving DecidableEq, Repr

/-- A demand record (R2). The handle is formed from slot and tag (R4). `expiry` is the time at which its hold runs
out, absent for a demand with no hold (R17). -/
structure Demand where
  circuit : CircuitId
  source : Source
  intent : Intent
  level : Option Nat
  priority : Nat
  expiry : Option Nat
  gated : Bool
  deriving DecidableEq, Repr

/-- A slot: its tag stands whether it is empty or not (R1). -/
structure Slot where
  tag : Nat
  demand : Option Demand
  deriving DecidableEq, Repr

/-- The outcome of a circuit's last resolution (R10): the winner's handle and the two levels. -/
structure Resolution where
  winner : Option Nat
  requested : Nat
  resolved : Nat
  deriving DecidableEq, Repr

/-- The Demand Table (R1). -/
structure DemandTable where
  slots : Vector Slot 64
  lists : Vector (List SlotId) 16
  res : Vector Resolution 16
  hostCount : Nat
  deriving DecidableEq, Repr

/-! ### Circuit Controller -/

/-- Where a circuit stands (R26; RAMP and RUNNING for MOTOR, 07_the_heater_fan.md). -/
inductive CircuitState where
  | off | starting | on | retryWait | locked | ramp | running
  deriving DecidableEq, Repr

/-- The dynamic part of a circuit record (R26), with its timers. `shed` is the time recorded with a set shed flag
(R140). `sampled`: the phase sample of this ON phase has been taken (R40). `stall` is the stall count (R124). -/
structure Circuit where
  state : CircuitState
  resolved : Nat
  granted : Nat
  applied : Nat
  winner : Option Nat
  flashing : Bool
  current : Nat
  lampOut : Bool
  confirm : Nat
  trips : Nat
  lastTrip : Option Nat
  shed : Option Nat
  stall : Nat
  sampled : Bool
  inrushDue : Option Nat
  retryDue : Option Nat
  quietDue : Option Nat
  rampDue : Option Nat
  measureDue : Option Nat
  deriving DecidableEq, Repr

/-! ### Input Binding Unit -/

/-- One sense input (R46 to R48): its debounced pin level (`none` is UNKNOWN), the pin level of the sample before
while UNKNOWN, and its counter. -/
structure SenseInput where
  level : Option Bool
  last : Option Bool
  counter : Nat
  deriving DecidableEq, Repr

/-- The condition of a binding (R52). -/
inductive Condition where
  | notEvaluated | false | true
  deriving DecidableEq, Repr

/-- The held item of a binding (R52). -/
inductive Held where
  | none | demand | request
  deriving DecidableEq, Repr

/-- What the Input Binding Unit keeps for one binding (R52). -/
structure BindingState where
  cond : Condition
  held : Held
  deriving DecidableEq, Repr

/-- The Input Binding Unit (R47, R50, R52). `sampleDue` is the next sample, absent in ASLEEP (R49). -/
structure Inputs where
  inputs : Vector SenseInput 12
  ignition : Bool
  bindings : Vector BindingState 16
  sampleDue : Option Nat
  deriving DecidableEq, Repr

/-! ### Flasher Unit -/

/-- The host's flash request (R65). -/
structure HostRequest where
  lanes : LaneSet
  count : Option Nat
  deriving DecidableEq, Repr

/-- The states of the flash clock (04_direction_signals.md, "The flash clock"). -/
inductive ClockState where
  | idle | on | off | waitSync
  deriving DecidableEq, Repr

/-- The Flasher Unit. `wireLow`: the rest of the wire holds FSYNC low (the input side of the pin, log 6); `pull`: the
part holds it low; `lineRead`: the level as last read, `true` for high (R85). `tickDue` ends a tick pulse (R84). -/
structure Flasher where
  host : Option HostRequest
  requests : Vector (Option LaneSet) 16
  clock : ClockState
  synced : Bool
  abandoned : Bool
  phaseFast : Bool
  phaseDue : Option Nat
  waitDue : Option Nat
  pull : Bool
  wireLow : Bool
  lineRead : Bool
  tick : Bool
  tickDue : Option Nat
  deriving DecidableEq, Repr

/-! ### Gauge Engine -/

/-- The states of a gauge channel (05_period_gauges.md, "Channel states"). -/
inductive GaugeState where
  | disabled | off | settling | tracking | faultHold | rest | direct
  deriving DecidableEq, Repr

/-- One gauge channel (R90 to R104). `codes` is the buffer, oldest first; `code` and `averaged` are what stage 1 last
recorded: N and the number of codes it averaged (R106). -/
structure Channel where
  state : GaugeState
  codes : List Nat
  code : Nat
  averaged : Nat
  resistance : Option Nat
  reading : Option Nat
  filter : Nat
  heater : Nat
  target : Nat
  supply : Nat
  duty : Nat
  faultRun : Nat
  goodRun : Nat
  hold : Nat
  warning : Bool
  undersupply : Bool
  setCount : Nat
  clearCount : Nat
  directReading : Option Nat
  convertDue : Option Nat
  tickDue : Option Nat
  deriving DecidableEq, Repr

/-! ### Supply and Budget Unit -/

/-- The supply state (R131). -/
inductive SupplyState where
  | normal | low | critical
  deriving DecidableEq, Repr

/-- The power state (R134). -/
inductive Power where
  | run | parked | asleep
  deriving DecidableEq, Repr

/-- The record of the most recent evaluation (R144, R145). -/
structure Evaluation where
  made : Bool
  allowance : Nat
  essential : Nat
  sheddable : Nat
  total : Nat
  overload : Bool
  deriving DecidableEq, Repr

/-- The Supply and Budget Unit. The four runs of R131 and the two of R132 are held as the time of their first
sample; `sleepSince` is the time at which the running sleep timer stood at 0 (R135). -/
structure Supply where
  samples : List Nat
  value : Nat
  state : SupplyState
  belowLow : Option Nat
  belowCritical : Option Nat
  aboveLow : Option Nat
  aboveCritical : Option Nat
  chargeSamples : List Nat
  chargeValue : Nat
  charging : Bool
  atThreshold : Option Nat
  belowThreshold : Option Nat
  power : Power
  sleepSince : Option Nat
  evaluateDue : Option Nat
  sampleDue : Option Nat
  lamp : Bool
  last : Evaluation
  deriving DecidableEq, Repr

/-! ### Link Port -/

/-- The result codes (R166). -/
inductive Result where
  | ok | truncated | busy | checkFailed | badCommand | badParameter | noSuchDemand | notOwner | quotaFull
  | wrongKind | wrongState | invalidTable | noWindow | storeLocked
  deriving DecidableEq, Repr

/-- The last result (R151). -/
structure LastResult where
  code : Byte
  result : Result
  handle : Nat
  deriving DecidableEq, Repr

/-- The tables reachable through a window (R166, "Tables"). -/
inductive Table where
  | circuit | binding | lane | flash | gauge | sender (g : ChannelId) | drive (g : ChannelId) | fan | budget
  | link | circuitState | gaugeState | demand
  deriving DecidableEq, Repr

/-- The window (R155). -/
structure Window where
  table : Table
  first : Nat
  last : Nat
  deriving DecidableEq, Repr

/-- The Link Port. The mask and the general-call setting are the LINK entry's (R162, R148); the attention line and
the address are computed from what stands here and there. -/
structure LinkPort where
  response : Option (List Byte)
  last : LastResult
  window : Option Window
  pending : StatusSet
  straps : BitVec 2
  deriving DecidableEq, Repr

/-! ### Configuration Store -/

/-- The store state (R169), with the page in hand; page 32 of a save is the verify (R170). -/
inductive StoreState where
  | idle
  | saving (page : Nat)
  | erasing (page : Nat)
  deriving DecidableEq, Repr

/-- The Configuration Store (R167 to R172). -/
structure Store where
  image : Memory
  state : StoreState
  buffer : Option Memory
  lock : Bool
  deriving DecidableEq, Repr

end Sys2Proof.Machine
end

