-- ==== Sys2Proof/Machine/ResetValues.lean ====
section
/-! DEFINITION. The values of each block after a reset, as its chapter gives them. -/

namespace Sys2Proof.Machine

open Sys2Proof

/-- R23. -/
def DemandTable.reset : DemandTable :=
  ⟨Vector.replicate 64 ⟨0, none⟩, Vector.replicate 16 [], Vector.replicate 16 ⟨none, 0, 0⟩, 0⟩

/-- R45, R128. -/
def Circuit.reset : Circuit where
  state := .off
  resolved := 0
  granted := 0
  applied := 0
  winner := none
  flashing := false
  current := 0
  lampOut := false
  confirm := 0
  trips := 0
  lastTrip := none
  shed := none
  stall := 0
  sampled := false
  inrushDue := none
  retryDue := none
  quietDue := none
  rampDue := none
  measureDue := none

/-- R63. The first sample falls 5 ms after the reset (log 19). -/
def Inputs.reset (now : Nat) : Inputs :=
  ⟨Vector.replicate 12 ⟨none, none, 0⟩, false, Vector.replicate 16 ⟨.notEvaluated, .none⟩, some (now + 5)⟩

/-- R86, over the wire as it stands. -/
def Flasher.reset (wireLow : Bool) : Flasher where
  host := none
  requests := Vector.replicate 16 none
  clock := .idle
  synced := false
  abandoned := false
  phaseFast := false
  phaseDue := none
  waitDue := none
  pull := false
  wireLow := wireLow
  lineRead := true
  tick := false
  tickDue := none

/-- R105: OFF with conversions running for an enabled channel, DISABLED for another. -/
def Channel.reset (enable : Bool) (now : Nat) : Channel where
  state := if enable then .off else .disabled
  codes := []
  code := 0
  averaged := 0
  resistance := none
  reading := none
  filter := 0
  heater := 0
  target := 0
  supply := 0
  duty := 0
  faultRun := 0
  goodRun := 0
  hold := 0
  warning := false
  undersupply := false
  setCount := 0
  clearCount := 0
  directReading := none
  convertDue := if enable then some (now + 20) else none
  tickDue := none

/-- R145. -/
def Supply.reset (now : Nat) : Supply where
  samples := []
  value := 0
  state := .normal
  belowLow := none
  belowCritical := none
  aboveLow := none
  aboveCritical := none
  chargeSamples := []
  chargeValue := 0
  charging := false
  atThreshold := none
  belowThreshold := none
  power := .parked
  sleepSince := some now
  evaluateDue := some (now + 1000)
  sampleDue := some (now + 20)
  lamp := false
  last := ⟨false, 0, 0, 0, 0, false⟩

/-- R165, after a power-on reset; `pending` is CONFIG-DEFAULTED or nothing (R174). -/
def LinkPort.reset (straps : BitVec 2) (pending : StatusSet) : LinkPort :=
  ⟨none, ⟨0x00, .ok, 0⟩, none, pending, straps⟩

end Sys2Proof.Machine
end

