-- ==== Sys2Proof/Machine/State.lean ====
section
/-! DEFINITION. The state of the part, what can stop a step, and the state right after reset. -/

namespace Sys2Proof.Machine

open Sys2Proof

/-! ### The part -/

/-- The state of the part. `evaluate`, `order` and `cuts` are the model's own (logs 25, 4, 7). -/
structure State where
  now : Nat
  powered : Bool
  cfg : LiveConfig
  dt : DemandTable
  cc : Vector Circuit 16
  ibu : Inputs
  fu : Flasher
  ge : Vector Channel 3
  sbu : Supply
  lp : LinkPort
  cs : Store
  evaluate : Bool
  order : List Nat
  cuts : Nat
  pending : List Instr
  deriving DecidableEq, Repr

/-- Faults of the machine. The spec names none: a frame in error is answered (R149, R150) and every condition of the
car is a status bit (R161), so no meaning raises a fault and the type has no constructor. -/
inductive Fault
  deriving DecidableEq, Repr

/-- Refusals of the model. -/
inductive Refusal where
  /-- A command with no meaning yet, named as the opcode table names it. Raised by `exec`'s own arms only; safe (the
  model stops). -/
  | notModelled (mnemonic : String)
  deriving DecidableEq, Repr

/-- The part right after a power-on reset with the straps at 0 and a blank image (log 5): the factory defaults are
the live configuration and CONFIG-DEFAULTED, member 11, is pending (R174). -/
def State.reset : State where
  now := 0
  powered := true
  cfg := factoryConfig
  dt := DemandTable.reset
  cc := Vector.replicate 16 Circuit.reset
  ibu := Inputs.reset 0
  fu := Flasher.reset false
  ge := Vector.replicate 3 (Channel.reset false 0)
  sbu := Supply.reset 0
  lp := LinkPort.reset 0 0x800
  cs := ⟨[], .idle, none, false⟩
  evaluate := false
  order := []
  cuts := 0
  pending := []

end Sys2Proof.Machine
end

