-- ==== Sys2Proof/Machine/Operands.lean ====
section
/-! DEFINITION. Operand forms: byte order, the roundings of 00_scope.md, the numbers and codes a command carries, and
handles. -/

namespace Sys2Proof.Machine

open Sys2Proof

/-! ### Bytes (00_scope.md, "Byte order") -/

/-- A one-byte value. -/
def byteOf (n : Nat) : Byte := BitVec.ofNat 8 n

/-- A two-byte value, least significant byte first. -/
def le16 (n : Nat) : List Byte := [byteOf (n % 256), byteOf (n / 256)]

/-- The value of two bytes, least significant first. -/
def nat16 (lo hi : Byte) : Nat := lo.toNat + 256 * hi.toNat

/-- The sum of bytes modulo 256 (R149). -/
def byteSum (bytes : List Byte) : Byte := bytes.foldl (· + ·) 0

/-- The check byte: it makes the sum of all bytes 0 modulo 256 (R150). -/
def checkByte (bytes : List Byte) : Byte := -(byteSum bytes)

/-- A flag as a summed bit value. -/
def bit (value : Nat) (flag : Bool) : Nat := if flag then value else 0

/-- Whether the summed bit value 2 to the power n is in a byte. -/
def flagBit (b : Byte) (n : Nat) : Bool := b.getLsbD n

/-! ### Roundings (00_scope.md, "Rounding") -/

/-- Rounded up, or the ceiling. -/
def ceilDiv (n d : Nat) : Nat := (n + d - 1) / d

/-- Rounded to nearest, halves up. -/
def roundHalfUp (n d : Nat) : Nat := (2 * n + d) / (2 * d)

/-- Rounded to nearest, halves away from zero. -/
def roundHalfAway (n : Int) (d : Nat) : Int :=
  if 0 ≤ n then (roundHalfUp n.toNat d : Int) else -(roundHalfUp (-n).toNat d : Int)

/-- Expected draw (00_scope.md): rated current times level over 1000, rounded up. -/
def expectedDraw (rated level : Nat) : Nat := ceilDiv (rated * level) 1000

/-- Whether a timer that runs out at `due` has run out. -/
def timerOut (due : Option Nat) (now : Nat) : Bool :=
  match due with
  | none => false
  | some t => decide (t ≤ now)


/-! ### Numbers and codes (R166) -/

/-- A circuit number, 0 to 15. -/
def circuitOf (b : Byte) : Option CircuitId :=
  if h : b.toNat < 16 then some ⟨b.toNat, h⟩ else none

/-- A channel number, 0 to 2. -/
def channelOf (b : Byte) : Option ChannelId :=
  if h : b.toNat < 3 then some ⟨b.toNat, h⟩ else none

/-- A lane-set code: 0 LEFT, 1 RIGHT, 2 BOTH. -/
def laneSetOf (b : Byte) : Option LaneSet :=
  match b.toNat with
  | 0 => some .left
  | 1 => some .right
  | 2 => some .both
  | _ => none

/-- The code of a lane set. -/
def LaneSet.code : LaneSet → Nat
  | .left => 0
  | .right => 1
  | .both => 2

/-- Whether a lane set covers a lane (R65). -/
def LaneSet.covers : LaneSet → Side → Bool
  | .left, .left => true
  | .right, .right => true
  | .both, _ => true
  | .left, .right => false
  | .right, .left => false

/-- A yes or no code: 0 no, 1 yes; another code names no value. -/
def yesNoOf (b : Byte) : Option Bool :=
  match b.toNat with
  | 0 => some false
  | 1 => some true
  | _ => none

/-- All circuits in ascending order. -/
def allCircuits : List CircuitId := [0, 1, 2, 3, 4, 5, 6, 7, 8, 9, 10, 11, 12, 13, 14, 15]

/-- All bindings in ascending order. -/
def allBindings : List BindingId := [0, 1, 2, 3, 4, 5, 6, 7, 8, 9, 10, 11, 12, 13, 14, 15]

/-- All channels in ascending order. -/
def allChannels : List ChannelId := [0, 1, 2]

/-- All sense inputs in ascending order. -/
def allInputs : List InputId := [0, 1, 2, 3, 4, 5, 6, 7, 8, 9, 10, 11]

/-- All slots in ascending order. -/
def allSlots : List SlotId := List.finRange 64

/-- Both lanes, LEFT before RIGHT (R72). -/
def allSides : List Side := [.left, .right]

/-! ### Handles (R4) -/

/-- The handle of a slot with a tag. -/
def handleOf (slot : SlotId) (tag : Nat) : Nat := slot.val * 256 + tag

/-- R4: "Each placement into a slot advances that slot's tag by one, from 255 to 1". -/
def nextTag (tag : Nat) : Nat := if tag = 255 then 1 else tag + 1

/-- The demand a handle given on the link names, with its slot: none when the handle is 0, its slot exceeds 63, its
tag is 0 or it is stale (R4). -/
def DemandTable.named (dt : DemandTable) (handle : Half) : Option (SlotId × Demand) :=
  if h : handle.toNat / 256 < 64 then
    let slot : SlotId := ⟨handle.toNat / 256, h⟩
    if handle.toNat % 256 = 0 ∨ (dt.slots[slot]).tag ≠ handle.toNat % 256 then none
    else ((dt.slots[slot]).demand).map (fun d => (slot, d))
  else none

/-! ### Order (log 4) -/

/-- The next choice among `n` events that the spec lets fall in either order, and the state with that choice used. -/
def State.choose (s : State) (n : Nat) : Nat × State :=
  match s.order with
  | [] => (0, s)
  | k :: ks => (k % n, { s with order := ks })

end Sys2Proof.Machine
end

