-- ==== Sys2Proof/Machine/Circuits.lean ====
section
/-! DEFINITION. The Circuit Controller on one circuit record (02_circuits_and_the_output_stage.md,
07_the_heater_fan.md): pure functions of its entry, the FAN entry, the time and the record. -/

namespace Sys2Proof.Machine

open Sys2Proof

/-! ### The steps of the fan (R117, R118) -/

/-- The steps in use: the leading steps, as many as the step count gives. -/
def FanCfg.stepsInUse (fan : FanCfg) : List Nat := fan.steps.toList.take fan.count

/-- The greatest step in use not above a level, or 0 when no step is so low (R127). -/
def FanCfg.stepAtMost (fan : FanCfg) (level : Nat) : Nat :=
  (fan.stepsInUse.filter (fun st => decide (st ≤ level))).foldl max 0

/-- The lowest step in use. -/
def FanCfg.lowest (fan : FanCfg) : Nat := fan.stepsInUse.headD 0

/-- R118: the mapped level. -/
def FanCfg.mapLevel (fan : FanCfg) (level : Nat) : Nat :=
  if level = 0 then 0
  else if fan.stepAtMost level = 0 then fan.lowest
  else fan.stepAtMost level

/-- The level a circuit record holds as resolved for a level of the Demand Table: mapped on a MOTOR circuit (R118). -/
def recordLevel (k : CircuitCfg) (fan : FanCfg) (level : Nat) : Nat :=
  if k.kind = .motor then fan.mapLevel level else level

/-! ### Driving the output (R29, R37) -/

/-- The output driven at a level. At 0 the measurement schedule stops and the last measured current reads 0; a rise
from 0 starts the schedule, first measurement 20 ms later (R37). -/
def Circuit.drive (now level : Nat) (r : Circuit) : Circuit :=
  if level = 0 then { r with applied := 0, measureDue := none, current := 0 }
  else if r.applied = 0 then { r with applied := level, measureDue := some (now + 20) }
  else { r with applied := level }

/-- Into OFF with applied level 0. `keep` keeps the confirmation counter (R42). -/
def Circuit.toOff (now : Nat) (keep : Bool) (r : Circuit) : Circuit :=
  { r.drive now 0 with
    state := .off
    inrushDue := none
    rampDue := none
    stall := 0
    confirm := if keep then r.confirm else 0 }

/-- Out of OFF with a granted level above 0: STARTING, or ON at once when the inrush time is 0 (R30); on a MOTOR
circuit from the start level or the granted level, whichever is smaller (R120). -/
def Circuit.start (k : CircuitCfg) (fan : FanCfg) (now : Nat) (r : Circuit) : Circuit :=
  if k.kind = .motor then
    if fan.start < r.granted then
      { r.drive now fan.start with state := .ramp, rampDue := some (now + 100) }
    else { r.drive now r.granted with state := .running, rampDue := none }
  else if k.inrushTime = 0 then { r.drive now r.granted with state := .on, inrushDue := none }
  else { r.drive now r.granted with state := .starting, inrushDue := some (now + k.inrushTime) }

/-- `start` when the granted level stands above 0. -/
def Circuit.startIfGranted (k : CircuitCfg) (fan : FanCfg) (now : Nat) (r : Circuit) : Circuit :=
  if r.granted = 0 then r else r.start k fan now

/-- A change of the granted level, taken in the circuit's state (R30 to R32, R34, R35; R120, R122). `phase`: the
flash clock left ON and the winner is still a lane demand, so a FLASHING circuit keeps its confirmation counter
(R42). -/
def Circuit.regrant (k : CircuitCfg) (fan : FanCfg) (now : Nat) (phase : Bool) (level : Nat) (r : Circuit) :
    Circuit :=
  if level = r.granted then r
  else
    let r := { r with granted := level }
    match r.state with
    | .off => r.startIfGranted k fan now
    | .starting => if level = 0 then r.toOff now (phase && r.flashing) else r.drive now level
    | .on => if level = 0 then r.toOff now (phase && r.flashing) else r.drive now level
    | .ramp =>
      if level = 0 then r.toOff now false
      else if r.applied < level then r
      else { r.drive now level with state := .running, rampDue := none }
    | .running =>
      if level = 0 then r.toOff now false
      else if r.applied < level then { r with state := .ramp, rampDue := some (now + 100) }
      else r.drive now level
    | .retryWait => r
    | .locked => r

/-- The resolved level handed on (R28, R142). On class 0 the granted level equals it at once. On a sheddable circuit a
fall below the granted level lowers it, and clears the shed flag; a fall to 0 clears the flag; a rise waits for an
evaluation. -/
def Circuit.setResolved (k : CircuitCfg) (fan : FanCfg) (now : Nat) (phase : Bool) (level : Nat) (r : Circuit) :
    Circuit :=
  let r := { r with resolved := level }
  if k.cls = 0 then r.regrant k fan now phase level
  else if level < r.granted then { r.regrant k fan now phase level with shed := none }
  else if level = 0 then { r with shed := none }
  else r

/-- The winner handed on: its handle, and FLASHING or STEADY; each change of mode restarts the confirmation counter
(R26, R40). -/
def Circuit.setWinner (winner : Option Nat) (flashing : Bool) (r : Circuit) : Circuit :=
  { r with
    winner := winner
    flashing := flashing
    confirm := if flashing = r.flashing then r.confirm else 0 }

/-- Out of LOCKED (R35): OFF, trip count 0, time of last trip absent, and on at once if granted. -/
def Circuit.release (k : CircuitCfg) (fan : FanCfg) (now : Nat) (r : Circuit) : Circuit :=
  if r.state = .locked then
    ({ r with state := .off, trips := 0, lastTrip := none, quietDue := none } : Circuit).startIfGranted k fan now
  else r

/-! ### Trips and stalls (R31 to R33, R123 to R125) -/

/-- The running trip limit: the trip current, or twice the rated current when it is 0 (R32). -/
def CircuitCfg.runningLimit (k : CircuitCfg) : Nat := if k.trip = 0 then 2 * k.rated else k.trip

/-- The trip limit in a state: multiplied by the inrush factor in STARTING (R31). -/
def CircuitCfg.tripLimit (k : CircuitCfg) (state : CircuitState) : Nat :=
  if state = .starting then k.runningLimit * k.inrushFactor else k.runningLimit

/-- The retry delay of R33 for the trip count after the trip. -/
def retryDelay (trips : Nat) : Nat := min 4000 (250 * 2 ^ (trips - 1))

/-- The stall retry delay of R125. -/
def stallDelay : Nat := 3000

/-- The trip count after a fault: one more, held at 7. -/
def tripsAfter (trips : Nat) : Nat := min 7 (trips + 1)

/-- The output cut by a trip or a stall, steps 1 to 4 of R33 and R125, with the retry delay the fault brings. -/
def Circuit.cut (k : CircuitCfg) (now delay : Nat) (r : Circuit) : Circuit :=
  let c : Circuit :=
    { r.toOff now false with
      trips := tripsAfter r.trips
      lastTrip := some now
      quietDue := some (now + 10000) }
  if r.trips < k.retryLimit then { c with state := .retryWait, retryDue := some (now + delay) }
  else { c with state := .locked, retryDue := none }

/-- The stall test (R124) of a measurement that passed the trip test, against the start level and the stall current of
the live FAN entry (the start level: log 42). -/
def Circuit.stallTest (k : CircuitCfg) (fan : FanCfg) (now : Nat) (r : Circuit) : Circuit :=
  if fan.stall = 0 then { r with stall := 0 }
  else if r.applied < fan.start then { r with stall := 0 }
  else if fan.stall < r.current then
    if 25 ≤ r.stall + 1 then r.cut k now stallDelay else { r with stall := r.stall + 1 }
  else { r with stall := 0 }

/-! ### Lamp-out (R39 to R41) -/

/-- R39: the evaluation is low. -/
def Circuit.readsLow (k : CircuitCfg) (r : Circuit) : Bool :=
  decide (r.current * 100 < k.lampOut * expectedDraw k.rated r.applied)

/-- The confirmation number (R41). -/
def confirmNumber (flashing : Bool) : Nat := if flashing then 2 else 15

/-- One evaluation taken by the confirmation counter (R41). -/
def Circuit.judgeLamp (low : Bool) (r : Circuit) : Circuit :=
  if low = r.lampOut then { r with confirm := 0 }
  else if confirmNumber r.flashing ≤ r.confirm + 1 then { r with lampOut := low, confirm := 0 }
  else { r with confirm := r.confirm + 1 }

/-- Step 3 of R38: in STEADY mode every measurement is an evaluation, in FLASHING mode only the phase sample, each at
an applied level of 500 or more (R39, R40; log 11). -/
def Circuit.lampTest (k : CircuitCfg) (r : Circuit) : Circuit :=
  let counted := !(r.flashing && r.sampled)
  let r := { r with sampled := true }
  if counted && decide (500 ≤ r.applied) then r.judgeLamp (r.readsLow k) else r

/-! ### Measurement (R37, R38) -/

/-- The kinds judged for lamp-out. -/
def Kind.isLamp : Kind → Bool
  | .filament => true
  | .led => true
  | .none => false
  | .motor => false
  | .gauge => false

/-- One measurement, taken whole in the order of R38. -/
def Circuit.measure (k : CircuitCfg) (fan : FanCfg) (now mean : Nat) (r : Circuit) : Circuit :=
  let r := { r with current := min mean 4095, measureDue := some (now + 20) }
  if k.tripLimit r.state < r.current then r.cut k now (retryDelay (tripsAfter r.trips))
  else if k.kind = .motor then r.stallTest k fan now
  else if k.kind.isLamp && decide (r.state = .on) then r.lampTest k
  else r

/-- A ramp step (R121). -/
def Circuit.rampUp (fan : FanCfg) (now : Nat) (r : Circuit) : Circuit :=
  if r.granted ≤ r.applied + fan.rate then { r.drive now r.granted with state := .running, rampDue := none }
  else { r.drive now (r.applied + fan.rate) with rampDue := some (now + 100) }

/-- The end of the retry delay (R34, R126). -/
def Circuit.retry (k : CircuitCfg) (fan : FanCfg) (now : Nat) (r : Circuit) : Circuit :=
  ({ r with state := .off, retryDue := none } : Circuit).startIfGranted k fan now

/-- The quiet time runs out: the trip count returns to 0, but not in LOCKED (R36). -/
def Circuit.quiet (r : Circuit) : Circuit :=
  { r with trips := if r.state = .locked then r.trips else 0, quietDue := none }

/-- CLEAR-FAULT on the record (R43). -/
def Circuit.clearFault (k : CircuitCfg) (fan : FanCfg) (now : Nat) (r : Circuit) : Circuit :=
  { r with lampOut := false, confirm := 0 }.release k fan now

end Sys2Proof.Machine
end

