-- ==== Sys2Proof/Machine/Flags.lean ====
section
/-! DEFINITION. Status conditions, the attention line and the result codes (R161, R162, R166). -/

namespace Sys2Proof.Machine

open Sys2Proof

/-- The twelve status conditions (09_link_port_commands_and_status.md, "Status"). -/
inductive Status where
  | lampOut | circuitLocked | senderFault | gaugeUndersupply | shedChanged | supplyLow | notCharging | syncFault
  | demandExpired | saveDone | saveFailed | configDefaulted
  deriving DecidableEq, Repr

/-- The member number of a condition (R166, "Status set"). -/
def Status.member : Status → Nat
  | .lampOut => 0
  | .circuitLocked => 1
  | .senderFault => 2
  | .gaugeUndersupply => 3
  | .shedChanged => 4
  | .supplyLow => 5
  | .notCharging => 6
  | .syncFault => 7
  | .demandExpired => 8
  | .saveDone => 9
  | .saveFailed => 10
  | .configDefaulted => 11

/-- The set of one condition. -/
def Status.mark (c : Status) : StatusSet := BitVec.ofNat 12 (2 ^ c.member)

/-- The Link Port with a condition raised when `when` holds: it joins the pending set; one already pending stays
pending, once (R161). -/
def LinkPort.raiseIf (lp : LinkPort) (c : Status) (when : Bool) : LinkPort :=
  if when then { lp with pending := lp.pending ||| c.mark } else lp

/-- A condition raised when `when` holds. -/
def State.raiseIf (c : Status) (when : Bool) (s : State) : State := { s with lp := s.lp.raiseIf c when }

/-- A condition raised (R161). -/
def State.raise (c : Status) (s : State) : State := s.raiseIf c true

/-- Whether a condition is pending. -/
def State.isPending (s : State) (c : Status) : Bool := decide (s.lp.pending &&& c.mark ≠ 0)

/-- R162: ATTN "is pulled low while at least one pending condition is named in the mask, and released otherwise";
released while RESET is held asserted (R174). -/
def State.attentionLow (s : State) : Bool :=
  s.powered && decide (s.lp.pending &&& s.cfg.link.mask ≠ 0)

/-- The result codes (R166). -/
def Result.code : Result → Nat
  | .ok => 0x00
  | .truncated => 0x01
  | .busy => 0x02
  | .checkFailed => 0x03
  | .badCommand => 0x04
  | .badParameter => 0x05
  | .noSuchDemand => 0x06
  | .notOwner => 0x07
  | .quotaFull => 0x08
  | .wrongKind => 0x09
  | .wrongState => 0x0A
  | .invalidTable => 0x0B
  | .noWindow => 0x0C
  | .storeLocked => 0x0D

end Sys2Proof.Machine
end

