-- ==== Sys2Proof/Machine/Demands.lean ====
section
/-! DEFINITION. The Demand Table (01_the_demand_table.md): resolution, placement, retirement, notices. -/

namespace Sys2Proof.Machine

open Sys2Proof

/-! ### Resolution (R10, R11) -/

/-- The head of a circuit's ranked list: its winner, with the slot (R10). -/
def DemandTable.winner (dt : DemandTable) (c : CircuitId) : Option (SlotId × Demand) :=
  match dt.lists[c] with
  | [] => none
  | slot :: _ => ((dt.slots[slot]).demand).map (fun d => (slot, d))

/-- The level a demand asks for regardless of the flash phase (R10). -/
def Demand.requested (cfg : LiveConfig) (d : Demand) : Nat :=
  match d.intent with
  | .on => d.level.getD 0
  | .off => 0
  | .followLane =>
    match d.source with
    | .lane side => (cfg.lane side).level
    | .host => 0
    | .binding _ => 0
    | .warning _ => 0
    | .charge => 0
    | .test => 0

/-- The level a demand gives its circuit at this moment (R10). -/
def Demand.resolved (cfg : LiveConfig) (clock : ClockState) (d : Demand) : Nat :=
  match d.intent with
  | .on => d.requested cfg
  | .off => 0
  | .followLane => if clock = .on then d.requested cfg else 0

/-- What R10 gives a circuit from its ranked list. -/
def State.resolution (s : State) (c : CircuitId) : Resolution :=
  match s.dt.winner c with
  | none => ⟨none, 0, 0⟩
  | some (slot, d) =>
    ⟨some (handleOf slot (s.dt.slots[slot]).tag), d.requested s.cfg, d.resolved s.cfg s.fu.clock⟩

/-- Whether the winner has intent FOLLOW-LANE. -/
def State.winnerFollows (s : State) (c : CircuitId) : Bool :=
  match s.dt.winner c with
  | none => false
  | some (_, d) => decide (d.intent = .followLane)

/-- What a resolution of circuit `c` to `new` makes of its record (R11: the Circuit Controller's two rows; R35). -/
def State.handOn (s : State) (c : CircuitId) (listed phase : Bool) (new : Resolution) : Circuit :=
  let k := s.cfg.circuits[c]
  let old := s.dt.res[c]
  let r := s.cc[c]
  let r := if new.winner = old.winner then r else r.setWinner new.winner (s.winnerFollows c)
  let level := recordLevel k s.cfg.fan new.resolved
  let r := if new.resolved = old.resolved ∨ level = r.resolved then r
    else r.setResolved k s.cfg.fan s.now phase level
  if listed && decide (new.requested = 0) then r.release k s.cfg.fan s.now else r

/-- Whether a resolution of circuit `c` to `new` is an evaluation event (R11: the Supply and Budget Unit's two rows;
R141). -/
def State.resolutionEvent (s : State) (c : CircuitId) (new : Resolution) : Bool :=
  let k := s.cfg.circuits[c]
  let old := s.dt.res[c]
  if k.cls = 0 then decide (new.winner ≠ old.winner) || decide (new.requested ≠ old.requested)
  else decide (new.resolved ≠ old.resolved) &&
    decide ((s.cc[c]).resolved < recordLevel k s.cfg.fan new.resolved)

/-- Whether the Demand Table resolves a circuit of this kind: not GAUGE, whose level the Gauge Engine writes, and not
NONE, which carries no demand (R10). -/
def Kind.takesDemands : Kind → Bool
  | .filament => true
  | .led => true
  | .motor => true
  | .none => false
  | .gauge => false

/-- A circuit resolved anew (R11). `listed`: its ranked list has changed, which may release LOCKED (R35); `phase`: the
flash clock has left ON (R42). A shed flag cleared by a fall is a change of the shed set (R142, R140). -/
def State.resolve (listed phase : Bool) (c : CircuitId) (s : State) : State :=
  if (s.cfg.circuits[c]).kind.takesDemands then
    let new := s.resolution c
    let r := s.handOn c listed phase new
    { s with
      dt := { s.dt with res := s.dt.res.set c new }
      cc := s.cc.set c r
      lp := s.lp.raiseIf .shedChanged (decide (r.shed.isSome ≠ (s.cc[c]).shed.isSome))
      evaluate := s.evaluate || s.resolutionEvent c new }
  else s

/-- Several circuits resolved anew, once each, in ascending order (R11). -/
def State.resolveAll (listed phase : Bool) (which : CircuitId → Bool) (s : State) : State :=
  (allCircuits.filter which).foldl (fun s c => s.resolve listed phase c) s

/-! ### Ranked lists (R9) -/

/-- The priority of the demand in a slot. -/
def DemandTable.priorityAt (dt : DemandTable) (slot : SlotId) : Nat :=
  match (dt.slots[slot]).demand with
  | none => 0
  | some d => d.priority

/-- R9: into the list "immediately before the first demand in the list whose priority is equal to or lower than its
own". -/
def DemandTable.rankedInsert (dt : DemandTable) (priority : Nat) (slot : SlotId) : List SlotId → List SlotId
  | [] => [slot]
  | x :: xs =>
    if dt.priorityAt x ≤ priority then slot :: x :: xs else x :: dt.rankedInsert priority slot xs

/-- The slot moved to the front of its priority group (R7, R13). -/
def DemandTable.reposition (dt : DemandTable) (c : CircuitId) (priority : Nat) (slot : SlotId) : DemandTable :=
  { dt with
    lists := dt.lists.set c (dt.rankedInsert priority slot ((dt.lists[c]).filter (fun x => decide (x ≠ slot)))) }

/-! ### Placement (R5) -/

/-- What a source asks to be placed (R2, R3). `hold` is in units of 100 ms. -/
structure Placement where
  circuit : CircuitId
  source : Source
  intent : Intent
  level : Option Nat
  priority : Nat
  hold : Option Nat
  gated : Bool
  deriving DecidableEq, Repr

/-- The time at which a hold started now runs out (R17). -/
def holdExpiryAt (now : Nat) (hold : Option Nat) : Option Nat := hold.map (fun h => now + 100 * h)

/-- The record of a placement made now. -/
def Placement.demand (p : Placement) (now : Nat) : Demand :=
  ⟨p.circuit, p.source, p.intent, p.level, p.priority, holdExpiryAt now p.hold, p.gated⟩

/-- The free slot of lowest number (R5). -/
def DemandTable.freeSlot (dt : DemandTable) : Option SlotId :=
  allSlots.find? (fun i => (dt.slots[i]).demand.isNone)

/-- The table with a new demand in a slot: the tag advanced, the record written, the list entered, the host count
raised for a host demand (R5). -/
def DemandTable.create (dt : DemandTable) (now : Nat) (slot : SlotId) (p : Placement) : DemandTable :=
  { dt with
    slots := dt.slots.set slot ⟨nextTag (dt.slots[slot]).tag, some (p.demand now)⟩
    lists := dt.lists.set p.circuit (dt.rankedInsert p.priority slot dt.lists[p.circuit])
    hostCount := if p.source = .host then dt.hostCount + 1 else dt.hostCount }

/-- A new demand in a slot, and its circuit resolved anew (R5). -/
def State.createAt (slot : SlotId) (p : Placement) (s : State) : State :=
  ({ s with dt := s.dt.create s.now slot p } : State).resolve true false p.circuit

/-- A new demand in the free slot of lowest number. R6 shows that an internal placement finds one in every state that
a run reaches; with none the placement is dropped (log 20). -/
def State.create (p : Placement) (s : State) : State :=
  match s.dt.freeSlot with
  | none => s
  | some slot => s.createAt slot p

/-! ### Retirement -/

/-- The table without the demand of a slot: the tag stands, the list closes up, the host count falls for a host
demand (R4, R9, R14, R16). -/
def DemandTable.remove (dt : DemandTable) (slot : SlotId) : DemandTable :=
  match (dt.slots[slot]).demand with
  | none => dt
  | some d =>
    { dt with
      slots := dt.slots.set slot ⟨(dt.slots[slot]).tag, none⟩
      lists := dt.lists.set d.circuit ((dt.lists[d.circuit]).filter (fun x => decide (x ≠ slot)))
      hostCount := if d.source = .host then dt.hostCount - 1 else dt.hostCount }

/-- The demand of a slot retired, and its circuit resolved anew (R14, R16). -/
def State.retireSlot (slot : SlotId) (s : State) : State :=
  match (s.dt.slots[slot]).demand with
  | none => s
  | some d => ({ s with dt := s.dt.remove slot } : State).resolve true false d.circuit

/-- The slots whose demand satisfies a test. -/
def DemandTable.slotsWhere (dt : DemandTable) (which : Demand → Bool) : List SlotId :=
  allSlots.filter (fun i => ((dt.slots[i]).demand).any which)

/-- Whether some demand on a circuit satisfies a test. -/
def DemandTable.standsOn (dt : DemandTable) (which : Demand → Bool) (c : CircuitId) : Bool :=
  (dt.slotsWhere (fun d => which d && decide (d.circuit = c))) ≠ []

/-- Several demands retired, then each circuit that lost one resolved once (R11, R15, R18, R20). -/
def State.retireWhere (which : Demand → Bool) (s : State) : State :=
  ({ s with dt := (s.dt.slotsWhere which).foldl DemandTable.remove s.dt } : State).resolveAll true false
    (s.dt.standsOn which)

/-! ### Keys (R7) -/

/-- Whether the key of a source names the circuit too: a lane's and the lamp test's (R7). -/
def Source.keyedByCircuit : Source → Bool
  | .lane _ => true
  | .test => true
  | .host => false
  | .binding _ => false
  | .warning _ => false
  | .charge => false

/-- Whether a living demand holds the key of `source` on `c` (the circuit counts where the key names it). -/
def Demand.holdsKey (source : Source) (c : CircuitId) (d : Demand) : Bool :=
  decide (d.source = source) && (!source.keyedByCircuit || decide (d.circuit = c))

/-- The living demand under a key, with its slot. -/
def DemandTable.keyed (dt : DemandTable) (source : Source) (c : CircuitId) : Option (SlotId × Demand) :=
  match dt.slotsWhere (Demand.holdsKey source c) with
  | [] => none
  | slot :: _ => ((dt.slots[slot]).demand).map (fun d => (slot, d))

/-- The handle of the living demand under a key, or 0. -/
def DemandTable.keyedHandle (dt : DemandTable) (source : Source) (c : CircuitId) : Nat :=
  match dt.keyed source c with
  | none => 0
  | some (slot, _) => handleOf slot (dt.slots[slot]).tag

/-- R7, a living demand under the key on the same circuit: the new level, priority and hold are written into it, and
a changed priority moves it to the front of its new group. -/
def State.replaceAt (slot : SlotId) (d : Demand) (p : Placement) (s : State) : State :=
  let written : Demand :=
    { d with level := p.level, priority := p.priority, expiry := holdExpiryAt s.now p.hold }
  let dt := { s.dt with slots := s.dt.slots.set slot ⟨(s.dt.slots[slot]).tag, some written⟩ }
  let dt := if p.priority = d.priority then dt else dt.reposition d.circuit p.priority slot
  ({ s with dt := dt } : State).resolve true false d.circuit

/-- An internal placement, keyed by its source (R7). -/
def State.placeInternal (p : Placement) (s : State) : State :=
  match s.dt.keyed p.source p.circuit with
  | none => s.create p
  | some (slot, d) =>
    if d.circuit = p.circuit then s.replaceAt slot d p
    else (s.retireSlot slot).create p

/-- An internal retirement by key; with no living demand under the key it has no effect (R7, R16). -/
def State.retireKey (source : Source) (c : CircuitId) (s : State) : State :=
  match s.dt.keyed source c with
  | none => s
  | some (slot, _) => s.retireSlot slot

/-! ### Notices (R16) -/

/-- The held items of the bindings after the Demand Table has told the Input Binding Unit which demands it retired
(R57): NONE, unless the key is again held by a living demand. -/
def State.bindingNotice (s : State) (was : DemandTable) (which : Demand → Bool) : Vector BindingState 16 :=
  Vector.ofFn (fun n : Fin 16 =>
    let b := s.ibu.bindings[n]
    let told := was.slotsWhere (fun d => which d && decide (d.source = .binding n)) ≠ []
    if told && decide (b.held = .demand) && (s.dt.keyed (.binding n) 0).isNone then { b with held := .none } else b)

/-- The warnings after the notice (R101). -/
def State.warningNotice (s : State) (was : DemandTable) (which : Demand → Bool) : Vector Channel 3 :=
  Vector.ofFn (fun g : Fin 3 =>
    let ch := s.ge[g]
    let told := was.slotsWhere (fun d => which d && decide (d.source = .warning g)) ≠ []
    if told && (s.dt.keyed (.warning g) 0).isNone then { ch with warning := false } else ch)

/-- The charge lamp after the notice (R133). -/
def State.lampNotice (s : State) (was : DemandTable) (which : Demand → Bool) : Bool :=
  let told := was.slotsWhere (fun d => which d && decide (d.source = .charge)) ≠ []
  if told && (s.dt.keyed .charge 0).isNone then false else s.sbu.lamp

/-- Demands retired by the Demand Table itself, at the end of a hold or at ignition off, and each internal source
told (R16, R18, R20). -/
def State.retireAndTell (which : Demand → Bool) (s : State) : State :=
  let t := s.retireWhere which
  { t with
    ibu := { t.ibu with bindings := t.bindingNotice s.dt which }
    ge := t.warningNotice s.dt which
    sbu := { t.sbu with lamp := t.lampNotice s.dt which } }

end Sys2Proof.Machine
end

