-- ==== Sys2Proof/Machine/Flasher.lean ====
section
/-! DEFINITION. The Flasher Unit (04_direction_signals.md): requests, lanes, the flash clock, the sync line, the tick
line. -/

namespace Sys2Proof.Machine

open Sys2Proof

/-! ### Requests and activity (R65, R71) -/

/-- Whether some request covers a lane: the lane is active (R71). -/
def Flasher.covers (fu : Flasher) (side : Side) : Bool :=
  fu.host.any (fun r => r.lanes.covers side) ||
    allBindings.any (fun n => (fu.requests[n]).any (fun l => l.covers side))

/-- Whether some lane is active. -/
def Flasher.anyActive (fu : Flasher) : Bool := allSides.any fu.covers

/-- R79: the fast-flash condition, as it stands: fast flash is enabled and a member of an active lane has its lamp-out
flag set. -/
def State.fastFlash (s : State) : Bool :=
  s.cfg.flash.fast &&
    allSides.any (fun side => s.fu.covers side && (s.cfg.lane side).members.any (fun c => (s.cc[c]).lampOut))

/-! ### The tick line (R84) -/

/-- TICK at an entry into ON. -/
def Flasher.tickOn (fu : Flasher) (mode : TickMode) (now : Nat) : Flasher :=
  match mode with
  | .off => fu
  | .pulse => { fu with tick := true, tickDue := some (now + 20) }
  | .follow => { fu with tick := true }

/-- TICK when the clock is anywhere but ON: FOLLOW goes low, a pulse runs its time. -/
def Flasher.tickOut (fu : Flasher) (mode : TickMode) : Flasher :=
  match mode with
  | .off => fu
  | .pulse => fu
  | .follow => { fu with tick := false }

/-- A change of tick mode, taken at once. -/
def Flasher.tickMode (fu : Flasher) (mode : TickMode) : Flasher :=
  match mode with
  | .off => { fu with tick := false, tickDue := none }
  | .pulse => { fu with tick := false, tickDue := none }
  | .follow => { fu with tick := decide (fu.clock = .on), tickDue := none }

/-! ### The flash clock -/

/-- The length of a phase that starts now from its setting: halved, rounded down, in fast flash (R74). -/
def phaseLength (fast : Bool) (setting : Nat) : Nat := if fast then setting / 2 else setting

/-- A change of phase announced (R80): the Demand Table resolves anew every circuit whose winner has intent
FOLLOW-LANE (R12). `left`: the clock has left ON. -/
def State.announcePhase (left : Bool) (s : State) : State := s.resolveAll false left s.winnerFollows

/-- Every circuit's phase sample opened: an entry into ON starts a new ON phase (R40, R80). -/
def openSamples (cc : Vector Circuit 16) : Vector Circuit 16 :=
  Vector.ofFn (fun c : Fin 16 => { cc[c] with sampled := false })

/-- Into ON, with its phase started (R74, R76). -/
def State.enterOn (s : State) : State :=
  let fast := s.fastFlash
  let fu := { s.fu with
    clock := .on
    phaseFast := fast
    phaseDue := some (s.now + phaseLength fast s.cfg.flash.onTime)
    waitDue := none
    pull := false }
  ({ s with fu := fu.tickOn s.cfg.flash.tick s.now, cc := openSamples s.cc } : State).announcePhase false

/-- Into OFF, with its phase started; a synced clock pulls the line low (R74, R76, R82). -/
def State.enterOff (s : State) : State :=
  let fast := s.fastFlash
  let fu := { s.fu with
    clock := .off
    phaseFast := fast
    phaseDue := some (s.now + phaseLength fast s.cfg.flash.offTime)
    pull := s.fu.synced }
  ({ s with fu := fu.tickOut s.cfg.flash.tick } : State).announcePhase true

/-- Into WAIT-SYNC, with its timeout of 2000 ms started (R75, R77, R83). -/
def State.enterWait (s : State) : State :=
  let fu := { s.fu with
    clock := .waitSync
    phaseDue := none
    waitDue := some (s.now + 2000)
    pull := false }
  { s with fu := fu.tickOut s.cfg.flash.tick }

/-- The clock leaves IDLE (R75, R81): the mode is taken from the sync setting, a SYNCED clock reads the line and
enters WAIT-SYNC when it reads low. -/
def State.startClock (s : State) : State :=
  let fu := { s.fu with synced := s.cfg.flash.sync }
  if s.cfg.flash.sync then
    let s := { s with fu := { fu with lineRead := !fu.wireLow } }
    if fu.wireLow then s.enterWait else s.enterOn
  else ({ s with fu := fu } : State).enterOn

/-- The clock goes to IDLE (R77); leaving ON is announced. -/
def State.stopClock (s : State) : State :=
  let fu := { s.fu with
    clock := .idle
    synced := false
    abandoned := false
    phaseFast := false
    phaseDue := none
    waitDue := none
    pull := false }
  let t := { s with fu := fu.tickOut s.cfg.flash.tick }
  if s.fu.clock = .on then t.announcePhase true else t

/-! ### Lanes (R71) -/

/-- The placement of a lane's demand on a member (R3, R71). -/
def lanePlacement (cfg : LiveConfig) (side : Side) (c : CircuitId) : Placement :=
  ⟨c, .lane side, .followLane, none, (cfg.lane side).priority, none, false⟩

/-- A demand placed on each member in the order of the members list. -/
def State.placeLane (side : Side) (s : State) : State :=
  (s.cfg.lane side).members.foldl (fun t c => t.placeInternal (lanePlacement s.cfg side c)) s

/-- The lane's demands on the listed members retired, in order. -/
def State.retireLane (side : Side) (members : List CircuitId) (s : State) : State :=
  members.foldl (fun t c => t.retireKey (.lane side) c) s

/-- The lanes of `sides` satisfying a test. -/
def sidesWhere (which : Side → Bool) : List Side := allSides.filter which

/-- R71: the demands of the lanes that lost coverage are retired, then those of the lanes that gained it placed. When
both lanes lose or both gain it, LEFT is taken before RIGHT, an order the spec does not give (log 37). A circuit that is
a member of the lane that lost and of the lane that gained is resolved at the retirement and again at the placement
(log 43). -/
def State.moveLanes (lost gained : List Side) (s : State) : State :=
  let s := lost.foldl (fun t side => t.retireLane side (t.cfg.lane side).members) s
  gained.foldl (fun t side => t.placeLane side) s

/-- One change of the set of requests, taken whole (R66): lane demands retired and placed (R71), the clock started
(R75) or stopped (R77). The lanes and the clock may be taken in either order (R12, R35; log 4). -/
def State.changeRequests (f : Flasher → Flasher) (s : State) : State :=
  let t := { s with fu := f s.fu }
  let lost := sidesWhere (fun side => s.fu.covers side && !t.fu.covers side)
  let gained := sidesWhere (fun side => !s.fu.covers side && t.fu.covers side)
  let clock : Option (State → State) :=
    if t.fu.anyActive then (if t.fu.clock = .idle then some State.startClock else none)
    else (if t.fu.clock = .idle then none else some State.stopClock)
  match clock with
  | none => t.moveLanes lost gained
  | some g =>
    let (k, t) := t.choose 2
    if k = 0 then g (t.moveLanes lost gained) else (g t).moveLanes lost gained

/-- The host's request placed or replaced (R66, R67). -/
def State.placeHostRequest (r : HostRequest) (s : State) : State :=
  s.changeRequests (fun fu => { fu with host := some r })

/-- The host's request retired (R66, R68); with none held it has no effect. -/
def State.retireHostRequest (s : State) : State :=
  if s.fu.host.isNone then s else s.changeRequests (fun fu => { fu with host := none })

/-- A binding's request placed (R56, R66). -/
def State.placeRequest (n : BindingId) (lanes : LaneSet) (s : State) : State :=
  s.changeRequests (fun fu => { fu with requests := fu.requests.set n (some lanes) })

/-- A binding's request retired (R56, R66); with none held it has no effect. -/
def State.retireRequest (n : BindingId) (s : State) : State :=
  if (s.fu.requests[n]).isNone then s
  else s.changeRequests (fun fu => { fu with requests := fu.requests.set n none })

/-- R69: the count of the host's request lowered at an end of ON; a count that reaches 0 retires the request. -/
def State.lowerCount (s : State) : State :=
  match s.fu.host with
  | none => s
  | some r =>
    match r.count with
    | none => s
    | some k =>
      if k ≤ 1 then s.retireHostRequest
      else { s with fu := { s.fu with host := some { r with count := some (k - 1) } } }

/-- One end of ON: OFF entered, the leaving of ON announced, the count lowered (R69, R76, R82). -/
def State.endOn (s : State) : State := s.enterOff.lowerCount

/-- The end of the OFF phase (R77). -/
def State.endOff (s : State) : State :=
  if s.fu.synced then
    let s := { s with fu := { s.fu with lineRead := !s.fu.wireLow } }
    if s.fu.wireLow then s.enterWait else s.enterOn
  else s.enterOn

/-- The WAIT-SYNC timeout (R83): SYNC-FAULT, sync abandoned, ON. -/
def State.abandonSync (s : State) : State :=
  let s := s.raise .syncFault
  ({ s with fu := { s.fu with synced := false, abandoned := true } } : State).enterOn

/-! ### The sync line (R81 to R83) -/

/-- Whether the clock is reading the line: a SYNCED clock in ON or WAIT-SYNC (R81). -/
def Flasher.watching (fu : Flasher) : Bool :=
  fu.synced && (decide (fu.clock = .on) || decide (fu.clock = .waitSync))

/-- The wire apart from the part's own pull goes low or high; a watching clock reads it. A fall that comes together with
the end of the ON phase is read when it is taken first, and not when the end is (log 41). -/
def Flasher.wire (fu : Flasher) (low : Bool) : Flasher :=
  { fu with wireLow := low, lineRead := if fu.watching then !low else fu.lineRead }

/-- The FSYNC line itself: low while the part or the rest of the wire pulls it low. -/
def Flasher.lineLow (fu : Flasher) : Bool := fu.pull || fu.wireLow

end Sys2Proof.Machine
end

