-- ==== Sys2Proof/Machine/GaugeMath.lean ====
section
/-! DEFINITION. Gauge Arithmetic (06_gauge_arithmetic.md): stages 1 to 8 of a gauge tick, and the curves. -/

namespace Sys2Proof.Machine

open Sys2Proof

/-- Stage 1 (R107): the sum of the codes divided by their number, rounded down. Also the mean of supply and charge
samples (R130, R132). -/
def meanOf (codes : List Nat) : Nat := codes.sum / codes.length

/-- The four most recent values, oldest first, with a new one pushed (R90, R130). -/
def pushFour (buffer : List Nat) (v : Nat) : List Nat :=
  (if buffer.length < 4 then buffer else buffer.drop (buffer.length - 3)) ++ [v]

/-- Stage 2 (R108): open. -/
def codeOpen (g : GaugeCfg) (n : Nat) : Bool := decide (g.openThr * 4096 ≤ n * 1000)

/-- Stage 2 (R108): short. -/
def codeShort (g : GaugeCfg) (n : Nat) : Bool := decide (n * 1000 ≤ g.shortThr * 4096)

/-- Stage 2 (R108): neither open nor short. -/
def codeGood (g : GaugeCfg) (n : Nat) : Bool := !codeOpen g n && !codeShort g n

/-- The pull-up in ohms (R87). -/
def pullUp (g : GaugeCfg) : Nat := if g.rangeHigh then 1000 else 100

/-- Stage 3 (R109): the resistance in quarter-ohms, saturated at 16383. -/
def resistanceOf (g : GaugeCfg) (n : Nat) : Nat :=
  min 16383 (roundHalfUp (4 * pullUp g * n) (4096 - n))

/-- The value between two points of a segment (R111). -/
def between (p q : Point) (x : Nat) : Nat :=
  ((p.y : Int) + roundHalfAway (((q.y : Int) - p.y) * ((x : Int) - p.x)) (q.x - p.x)).toNat

/-- A lookup past the first point `p`: the first segment whose end is not below x, or the last point's y (R111). -/
def lookupFrom (p : Point) : List Point → Nat → Nat
  | [], _ => p.y
  | q :: rest, x => if x ≤ q.x then between p q x else lookupFrom q rest x

/-- A curve lookup (R111) in the points in use. -/
def curveLookup (points : List Point) (x : Nat) : Nat :=
  match points with
  | [] => 0
  | p :: rest => if x ≤ p.x then p.y else lookupFrom p rest x

/-- A curve in use is well formed when each x is strictly greater than the one before (R110). -/
def curveWellFormed : List Point → Bool
  | [] => true
  | [_] => true
  | p :: q :: rest => decide (p.x < q.x) && curveWellFormed (q :: rest)

/-- The sender curve in use of a channel (R110). -/
def LiveConfig.senderCurve (cfg : LiveConfig) (g : ChannelId) : List Point :=
  (cfg.sender[g]).toList.take (cfg.gauges[g]).senderPoints

/-- The drive curve in use of a channel (R110). -/
def LiveConfig.driveCurve (cfg : LiveConfig) (g : ChannelId) : List Point :=
  (cfg.drive[g]).toList.take (cfg.gauges[g]).drivePoints

/-- The coefficient k of R113. -/
def dampingCoefficient (damping : Nat) : Nat := roundHalfUp 256 (damping + 1)

/-- The step of the filter toward a target (R113, points 1 to 3). -/
def filterStep (damping f target : Nat) : Int :=
  let d : Int := (target : Int) * 16 - f
  let step := Int.tdiv (d * dampingCoefficient damping) 256
  if step = 0 then (if 0 < d then 1 else if d < 0 then -1 else 0) else step

/-- Stage 5 (R113): the filter after one step. -/
def filterNext (damping f target : Nat) : Nat := ((f : Int) + filterStep damping f target).toNat

/-- The displayed reading (R113). -/
def displayedOf (f : Nat) : Nat := roundHalfUp f 16

/-- Stage 7 (R115): the target voltage in mV. -/
def targetVoltage (stabilised heater : Nat) : Nat := roundHalfUp (heater * stabilised) 1000

/-- Stage 8 (R116): the undersupply outcome. -/
def undersupplied (target supply : Nat) : Bool := decide (target ≠ 0) && decide (supply ≤ target)

/-- Stage 8 (R116): the duty. -/
def dutyOf (target supply : Nat) : Nat :=
  if target = 0 then 0
  else if supply ≤ target then 1000
  else roundHalfUp (target * 1000) supply

end Sys2Proof.Machine
end

