-- ==== Sys2Proof/Machine/Gauges.lean ====
section
/-! DEFINITION. The Gauge Engine (05_period_gauges.md): channel states, ticks, warnings, the drive of the gauge
circuit. -/

namespace Sys2Proof.Machine

open Sys2Proof

/-! ### The drive circuit (R98) -/

/-- A duty written as the resolved level of a GAUGE circuit (R98): taken like any change of resolved level (R28), and a
written 0 releases LOCKED (R35). A write that equals the level standing hands nothing on. -/
def State.writeDuty (c : CircuitId) (duty : Nat) (s : State) : State :=
  let k := s.cfg.circuits[c]
  let r := s.cc[c]
  if k.kind ≠ .gauge ∨ r.resolved = duty then s
  else
    let r := r.setResolved k s.cfg.fan s.now false duty
    let r := if duty = 0 then r.release k s.cfg.fan s.now else r
    { s with
      dt := { s.dt with res := s.dt.res.set c { s.dt.res[c] with resolved := duty } }
      cc := s.cc.set c r
      lp := s.lp.raiseIf .shedChanged (decide (r.shed.isSome ≠ (s.cc[c]).shed.isSome)) }

/-- A channel's record replaced. -/
def State.setChannel (g : ChannelId) (ch : Channel) (s : State) : State := { s with ge := s.ge.set g ch }

/-- A channel's record and duty, and the duty written to its drive circuit (R98). -/
def State.driveGauge (g : ChannelId) (ch : Channel) (duty : Nat) (s : State) : State :=
  (s.setChannel g { ch with duty := duty }).writeDuty (s.cfg.gauges[g]).drive duty

/-! ### Stages on a channel -/

/-- Stages 6 to 8 recorded, with the undersupply flag judged (R99, R106, R112, R115, R116). The duty comes beside. -/
def Channel.compensate (cfg : LiveConfig) (g : ChannelId) (supply : Nat) (ch : Channel) : Channel × Nat :=
  let heater := curveLookup (cfg.driveCurve g) (displayedOf ch.filter)
  let target := targetVoltage (cfg.gauges[g]).stabilised heater
  ({ ch with heater := heater, target := target, supply := supply, undersupply := undersupplied target supply },
    dutyOf target supply)

/-- Stages 3 and 4 recorded: the resistance and the sender reading of code n (R106, R109, R112). -/
def Channel.readSender (cfg : LiveConfig) (g : ChannelId) (n : Nat) (ch : Channel) : Channel :=
  let rq := resistanceOf (cfg.gauges[g]) n
  { ch with resistance := some rq, reading := some (curveLookup (cfg.senderCurve g) rq) }

/-- Stages 6 to 8 run and the duty written; GAUGE-UNDERSUPPLY raised when the flag goes from clear to set (R99). -/
def State.compensateGauge (g : ChannelId) (ch : Channel) (s : State) : State :=
  let out := ch.compensate s.cfg g s.sbu.value
  (s.driveGauge g out.1 out.2).raiseIf .gaugeUndersupply (out.1.undersupply && !ch.undersupply)

/-! ### States -/

/-- The channel's entry into REST (R95): filter cleared, undersupply flag cleared. -/
def Channel.toRest (ch : Channel) : Channel :=
  { ch with state := .rest, filter := 0, undersupply := false }

/-- The channel's entry into FAULT-HOLD (R94), warning counts to 0 (R101). -/
def Channel.toFaultHold (ch : Channel) : Channel :=
  { ch with state := .faultHold, hold := 0, goodRun := 0, setCount := 0, clearCount := 0 }

/-- What an entry into OFF or DISABLED leaves of the channel (R96, R97, R104): readouts 0 or absent, the conversion
schedule and the buffer as given. -/
def Channel.cleared (state : GaugeState) (codes : List Nat) (convertDue : Option Nat) : Channel :=
  { Channel.reset false 0 with state := state, codes := codes, convertDue := convertDue }

/-- The channel's entry into SETTLING (R92), with its first tick 100 ms later (R91). -/
def Channel.toSettling (now : Nat) (ch : Channel) : Channel :=
  { ch with state := .settling, filter := 0, faultRun := 0, goodRun := 0, tickDue := some (now + 100) }

/-- Entry into OFF at ignition off (R96): 0 written to the drive circuit, the warning demand retired. A channel in OFF
or DISABLED is not disturbed. -/
def State.gaugeOff (g : ChannelId) (s : State) : State :=
  let ch := s.ge[g]
  if ch.state = .off ∨ ch.state = .disabled then s
  else
    let s := s.driveGauge g (Channel.cleared .off ch.codes ch.convertDue) 0
    if ch.warning then s.retireKey (.warning g) 0 else s

/-- An ignition-on event at a channel (R92): OFF to SETTLING, any other state undisturbed. -/
def State.gaugeOn (g : ChannelId) (s : State) : State :=
  let ch := s.ge[g]
  if ch.state = .off then s.setChannel g (ch.toSettling s.now) else s

/-! ### Warnings (R100) -/

/-- R100: the warning condition. -/
def warnCondition (k : GaugeCfg) (r : Nat) : Bool :=
  if k.warnAbove then decide (k.warnThr < r) else decide (r < k.warnThr)

/-- R100: the clearing condition. A threshold minus hysteresis below 0 is met by no reading. -/
def clearCondition (k : GaugeCfg) (r : Nat) : Bool :=
  if k.warnAbove then decide (r + k.hysteresis < k.warnThr) else decide (k.warnThr + k.hysteresis < r)

/-- The count that confirms a warning's start or end (R100). -/
def GaugeCfg.warnConfirm (k : GaugeCfg) : Nat := max 1 k.warnDelay

/-- The warning demand (R3, R100). -/
def warningPlacement (k : GaugeCfg) (g : ChannelId) : Placement :=
  ⟨k.warnCircuit, .warning g, .on, some 1000, k.warnPriority, none, true⟩

/-- One evaluation of a channel's warning against the displayed reading (R100). -/
def State.evaluateWarning (g : ChannelId) (s : State) : State :=
  let k := s.cfg.gauges[g]
  let ch := s.ge[g]
  let r := displayedOf ch.filter
  if ¬ k.warnEnable then s
  else if ch.warning then
    if clearCondition k r then
      if k.warnConfirm ≤ ch.clearCount + 1 then
        (s.setChannel g { ch with clearCount := 0, warning := false }).retireKey (.warning g) 0
      else s.setChannel g { ch with clearCount := ch.clearCount + 1 }
    else s.setChannel g { ch with clearCount := 0 }
  else
    if warnCondition k r then
      if k.warnConfirm ≤ ch.setCount + 1 then
        (s.setChannel g { ch with setCount := 0, warning := true }).placeInternal (warningPlacement k g)
      else s.setChannel g { ch with setCount := ch.setCount + 1 }
    else s.setChannel g { ch with setCount := 0 }

/-! ### The tick (R91 to R95, R102) -/

/-- A good TRACKING tick (R93) of code n, on the channel as given, without its warning. -/
def State.trackGood (g : ChannelId) (n : Nat) (ch : Channel) (s : State) : State :=
  let ch := ch.readSender s.cfg g n
  s.compensateGauge g
    { ch with
      state := .tracking
      faultRun := 0
      filter := filterNext (s.cfg.gauges[g]).damping ch.filter (ch.reading.getD 0) }

/-- The good tick that ends SETTLING (R92); its fault run ends with it (log 17). -/
def State.settleGood (g : ChannelId) (n : Nat) (ch : Channel) (s : State) : State :=
  let ch := ch.readSender s.cfg g n
  s.compensateGauge g
    { ch with state := .tracking, faultRun := 0, filter := 16 * ch.reading.getD 0 }

/-- A faulted tick in SETTLING (R92); the fifth enters FAULT-HOLD, or REST at once when the hold time is 0 (R94). -/
def State.settleFaulted (g : ChannelId) (ch : Channel) (s : State) : State :=
  let ch := { ch with faultRun := ch.faultRun + 1 }
  if ch.faultRun < 5 then s.driveGauge g ch 0
  else
    let ch := ch.toFaultHold
    (s.raise .senderFault).driveGauge g (if (s.cfg.gauges[g]).holdTime = 0 then ch.toRest else ch) 0

/-- Stages 6 to 8 run at the tick that goes on to REST (R94 with a hold time of 0; log 39): their values are recorded
and GAUGE-UNDERSUPPLY is raised as `State.compensateGauge` raises it, then REST clears the filter and the flag, and the
one duty written is 0. -/
def State.compensateThenRest (g : ChannelId) (ch : Channel) (s : State) : State :=
  let out := ch.compensate s.cfg g s.sbu.value
  (s.driveGauge g out.1.toRest 0).raiseIf .gaugeUndersupply (out.1.undersupply && !ch.undersupply)

/-- A faulted tick in TRACKING (R93); the fifth enters FAULT-HOLD, or REST at once when the hold time is 0, its stages
6 to 8 run either way (R94, R106). -/
def State.trackFaulted (g : ChannelId) (ch : Channel) (s : State) : State :=
  let ch := { ch with faultRun := ch.faultRun + 1 }
  if ch.faultRun < 5 then s.compensateGauge g ch
  else
    let ch := ch.toFaultHold
    let s := s.raise .senderFault
    if (s.cfg.gauges[g]).holdTime = 0 then s.compensateThenRest g ch else s.compensateGauge g ch

/-- The channel with the code of this tick counted into its good run (R94, R95). -/
def Channel.countGood (good : Bool) (ch : Channel) : Channel :=
  { ch with goodRun := if good then ch.goodRun + 1 else 0 }

/-- The channel back in TRACKING at its fifth good tick: counts to 0 (R95). -/
def Channel.recovered (ch : Channel) : Channel :=
  { ch with faultRun := 0, goodRun := 0, setCount := 0, clearCount := 0 }

/-- A tick in FAULT-HOLD (R94). -/
def State.holdTick (g : ChannelId) (n : Nat) (good : Bool) (ch : Channel) (s : State) : State :=
  let ch := ch.countGood good
  if 5 ≤ ch.goodRun then s.trackGood g n ch.recovered
  else
    let ch := { ch with hold := ch.hold + 1 }
    if (s.cfg.gauges[g]).holdTime ≤ ch.hold then s.driveGauge g ch.toRest 0 else s.compensateGauge g ch

/-- A tick in REST (R95). -/
def State.restTick (g : ChannelId) (n : Nat) (good : Bool) (ch : Channel) (s : State) : State :=
  let ch := ch.countGood good
  if 5 ≤ ch.goodRun then s.trackGood g n ch.recovered else s.driveGauge g ch 0

/-- A tick in DIRECT (R102): the direct reading is the filter's target. -/
def State.directTick (g : ChannelId) (ch : Channel) (s : State) : State :=
  s.compensateGauge g
    { ch with filter := filterNext (s.cfg.gauges[g]).damping ch.filter (ch.directReading.getD 0) }

/-- One gauge tick (R91). An empty buffer skips it whole; the schedule runs on. -/
def State.gaugeTick (g : ChannelId) (s : State) : State :=
  let k := s.cfg.gauges[g]
  let ch : Channel := { s.ge[g] with tickDue := some (s.now + 100) }
  if ch.codes = [] then s.setChannel g ch
  else
    let n := meanOf ch.codes
    let good := codeGood k n
    let ch := { ch with code := n, averaged := ch.codes.length }
    match ch.state with
    | .settling => if good then s.settleGood g n ch else s.settleFaulted g ch
    | .tracking => if good then (s.trackGood g n ch).evaluateWarning g else s.trackFaulted g ch
    | .faultHold => s.holdTick g n good ch
    | .rest => s.restTick g n good ch
    | .direct => s.directTick g ch
    | .off => s
    | .disabled => s

/-! ### Applied writes (R89, R97) -/

/-- Entry into DISABLED (R97), under the old entry: conversions and ticks stop, 0 is written to the old drive
circuit, the warning demand is retired. -/
def State.gaugeDisable (g : ChannelId) (old : GaugeCfg) (s : State) : State :=
  let ch := s.ge[g]
  let s := (s.setChannel g (Channel.cleared .disabled [] none)).writeDuty old.drive 0
  if ch.warning then s.retireKey (.warning g) 0 else s

/-- Enabling (R89): buffer empty, conversions started, SETTLING or OFF by the ignition. -/
def State.gaugeEnable (g : ChannelId) (s : State) : State :=
  let ch := Channel.reset true s.now
  s.setChannel g (if s.ibu.ignition then ch.toSettling s.now else ch)

/-- Whether any warning field differs (R89). -/
def warningFieldsDiffer (a b : GaugeCfg) : Bool :=
  decide ((a.warnEnable, a.warnAbove, a.warnThr, a.hysteresis, a.warnDelay, a.warnCircuit, a.warnPriority) ≠
    (b.warnEnable, b.warnAbove, b.warnThr, b.hysteresis, b.warnDelay, b.warnCircuit, b.warnPriority))

/-- A change of drive circuit on an enabled channel: 0 to the old one (R89). -/
def State.gaugeDriveChanged (old new : GaugeCfg) (s : State) : State :=
  if old.drive = new.drive then s else s.writeDuty old.drive 0

/-- A change of sender input or range on an enabled channel (R89): the buffer is emptied, the next conversion falls
20 ms later (R90), and the two run counts return to 0. -/
def State.gaugeSenderChanged (g : ChannelId) (old new : GaugeCfg) (s : State) : State :=
  if old.sender = new.sender ∧ old.rangeHigh = new.rangeHigh then s
  else s.setChannel g
    { s.ge[g] with codes := [], faultRun := 0, goodRun := 0, convertDue := some (s.now + 20) }

/-- A change of a warning field on an enabled channel (R89): the demand retired, the counts to 0. -/
def State.gaugeWarningChanged (g : ChannelId) (old new : GaugeCfg) (s : State) : State :=
  if warningFieldsDiffer old new then
    let ch := s.ge[g]
    let s := s.setChannel g { ch with warning := false, setCount := 0, clearCount := 0 }
    if ch.warning then s.retireKey (.warning g) 0 else s
  else s

/-- An applied GAUGE write at one channel (R89). -/
def State.gaugeWritten (g : ChannelId) (old new : GaugeCfg) (s : State) : State :=
  match old.enable, new.enable with
  | false, true => s.gaugeEnable g
  | true, false => s.gaugeDisable g old
  | true, true => ((s.gaugeDriveChanged old new).gaugeSenderChanged g old new).gaugeWarningChanged g old new
  | false, false => s

end Sys2Proof.Machine
end

