-- ==== Sys2Proof/Machine/Budget.lean ====
section
/-! DEFINITION. The budget evaluation (08_supply_charging_and_the_load_budget.md, R137 to R142). -/

namespace Sys2Proof.Machine

open Sys2Proof

/-! ### Allowance and essential draw -/

/-- R137: the base allowance. In ASLEEP no evaluation is made. -/
def State.baseAllowance (s : State) : Nat :=
  match s.sbu.power with
  | .run => if s.sbu.charging then s.cfg.budget.dynamo else s.cfg.budget.battery
  | .parked => s.cfg.budget.park
  | .asleep => s.cfg.budget.park

/-- R137: the allowance B. -/
def State.allowance (s : State) : Nat :=
  if s.sbu.state = .normal then s.baseAllowance else s.baseAllowance * s.cfg.budget.derate / 1000

/-- R138: the level at which the essential draw counts a class 0 circuit. -/
def State.countedLevel (s : State) (c : CircuitId) : Nat :=
  match (s.cfg.circuits[c]).kind with
  | .filament => (s.dt.res[c]).requested
  | .led => (s.dt.res[c]).requested
  | .motor => s.cfg.fan.mapLevel (s.dt.res[c]).requested
  | .gauge => (s.cc[c]).resolved
  | .none => 0

/-- R138: the essential draw E. -/
def State.essentialDraw (s : State) : Nat :=
  ((allCircuits.filter (fun c => decide ((s.cfg.circuits[c]).cls = 0))).map
    (fun c => expectedDraw (s.cfg.circuits[c]).rated (s.countedLevel c))).sum

/-- R138: the sheddable allowance A. -/
def State.sheddableAllowance (s : State) : Nat :=
  if s.sbu.state = .critical then 0 else s.allowance - s.essentialDraw

/-! ### The pass (R139, R140) -/

/-- The circuits the pass visits, in its order: class 1, 2, 3, and within a class ascending. -/
def State.visited (s : State) : List CircuitId :=
  [1, 2, 3].flatMap (fun cls =>
    allCircuits.filter (fun c =>
      decide ((s.cfg.circuits[c]).cls = cls) && decide ((s.cc[c]).resolved ≠ 0)))

/-- R139: the candidate levels of a circuit, from the highest down. -/
def State.candidates (s : State) (c : CircuitId) : List Nat :=
  if (s.cfg.circuits[c]).kind = .motor then
    (s.cfg.fan.stepsInUse.filter (fun st => decide (st ≤ (s.cc[c]).resolved))).reverse
  else [(s.cc[c]).resolved]

/-- R139: the need of a candidate. -/
def State.need (s : State) (c : CircuitId) (level : Nat) : Nat := expectedDraw (s.cfg.circuits[c]).rated level

/-- R139: whether the restore delay has run since the shed flag was recorded; true with the flag clear. -/
def State.delayRun (s : State) (r : Circuit) : Bool :=
  match r.shed with
  | none => true
  | some t => decide (s.cfg.budget.delay * 100 ≤ s.now - t)

/-- R139: whether a candidate passes on top of a running total under A. -/
def State.passes (s : State) (a total : Nat) (c : CircuitId) (level : Nat) : Bool :=
  let r := s.cc[c]
  if level ≤ r.granted then decide (total + s.need c level ≤ a)
  else decide (total + s.need c level + s.cfg.budget.margin ≤ a) && s.delayRun r

/-- What the pass carries from circuit to circuit: the running total, the class of the first circuit held back, and
the levels granted. -/
structure Pass where
  total : Nat
  heldClass : Option Nat
  grants : List (CircuitId × Nat)
  deriving DecidableEq, Repr

/-- R140: a circuit of a higher class than one already held back is not tried. -/
def Pass.blocks (p : Pass) (cls : Nat) : Bool := p.heldClass.any (fun h => decide (h < cls))

/-- One visit of the pass (R139, R140). -/
def State.visit (s : State) (a : Nat) (p : Pass) (c : CircuitId) : Pass :=
  let cls := (s.cfg.circuits[c]).cls
  let level :=
    if p.blocks cls then 0 else ((s.candidates c).find? (s.passes a p.total c)).getD 0
  { total := p.total + s.need c level
    heldClass := if p.heldClass.isNone && decide (level < (s.cc[c]).resolved) then some cls else p.heldClass
    grants := (c, level) :: p.grants }

/-- The whole pass. -/
def State.pass (s : State) : Pass :=
  s.visited.foldl (s.visit s.sheddableAllowance) ⟨0, none, []⟩

/-- The level a pass granted a circuit; 0 for a circuit it did not visit. -/
def Pass.granted (p : Pass) (c : CircuitId) : Nat :=
  match p.grants.find? (fun q => decide (q.1 = c)) with
  | none => 0
  | some q => q.2

/-- R140: the shed flag and its time at the end of an evaluation that grants `level` and is recorded at `stamp`. -/
def Circuit.shedAfter (stamp level : Nat) (r : Circuit) : Option Nat :=
  if level < r.resolved then
    (if r.shed.isNone ∨ level < r.granted then some stamp else r.shed)
  else none

/-- A circuit after an evaluation: a sheddable one has its new flag and its new granted level by its own states
(R140, R141); a class 0 circuit stands. -/
def State.evaluated (s : State) (stamp : Nat) (p : Pass) (c : CircuitId) : Circuit :=
  let k := s.cfg.circuits[c]
  let r := s.cc[c]
  if k.cls = 0 then r
  else ({ r with shed := r.shedAfter stamp (p.granted c) } : Circuit).regrant k s.cfg.fan s.now false (p.granted c)

/-- A budget evaluation (R139 to R141): taken whole, its grants handed on as one change, SHED-CHANGED raised at most
once, its record kept (R144). `stamp` is the time recorded with a flag it sets. -/
def State.budgetEvaluation (stamp : Nat) (s : State) : State :=
  let p := s.pass
  let cc := Vector.ofFn (fun c : Fin 16 => s.evaluated stamp p c)
  { s with
    cc := cc
    sbu := { s.sbu with
      last := ⟨true, s.allowance, s.essentialDraw, s.sheddableAllowance, p.total,
        decide (s.allowance < s.essentialDraw)⟩ }
    lp := s.lp.raiseIf .shedChanged
      (allCircuits.any (fun c => decide ((cc[c]).shed.isSome ≠ (s.cc[c]).shed.isSome))) }

/-! ### The sleep timer (R135) and the end of a command -/

/-- R135: no circuit has a resolved level above 0, the flash clock is IDLE, the store is IDLE. -/
def State.quiet (s : State) : Bool :=
  allCircuits.all (fun c => decide ((s.cc[c]).resolved = 0)) && decide (s.fu.clock = .idle) &&
    decide (s.cs.state = .idle)

/-- The sleep timer as its conditions leave it: it runs on, starts from 0, or stops and returns to 0 (R135). -/
def State.sleepTimer (s : State) : Option Nat :=
  if s.sbu.power = .parked ∧ s.quiet then some (s.sbu.sleepSince.getD s.now) else none

/-- The evaluation events of a command taken in one evaluation, made once every effect of their cause has been taken,
and none in ASLEEP (R141). -/
def State.takeEvaluation (stamp : Nat) (s : State) : State :=
  let t := { s with evaluate := false }
  if s.evaluate ∧ s.sbu.power ≠ .asleep then t.budgetEvaluation stamp else t

/-- The end of a command: its evaluation (R141), then the sleep timer formed anew (R135). -/
def State.settle (s : State) : State :=
  let t := s.takeEvaluation s.now
  { t with sbu := { t.sbu with sleepSince := t.sleepTimer } }

/-- An evaluation event (R141). -/
def State.wantEvaluation (s : State) : State := { s with evaluate := true }

/-- The sleep timer returned to 0, and running on from there (R135). -/
def State.restartSleep (s : State) : State :=
  { s with sbu := { s.sbu with sleepSince := s.sbu.sleepSince.map (fun _ => s.now) } }

end Sys2Proof.Machine
end

