-- ==== Sys2Proof/Machine/Supplies.lean ====
section
/-! DEFINITION. Supply and charge states, the charge lamp, the power states
(08_supply_charging_and_the_load_budget.md, R129 to R136). -/

namespace Sys2Proof.Machine

open Sys2Proof

/-! ### Levels (R129) -/

/-- The nominal voltage of the installation in mV. -/
def BudgetCfg.nominal (b : BudgetCfg) : Nat :=
  match b.system with
  | .six => 6300
  | .twelve => 12600

/-- A supply level: the nominal times a permille figure over 1000, rounded down. -/
def BudgetCfg.supplyLevel (b : BudgetCfg) (permille : Nat) : Nat := b.nominal * permille / 1000

/-- The charge threshold in force: 0 means 5800 mV on system 6 and 11600 mV on system 12. -/
def BudgetCfg.chargeLevel (b : BudgetCfg) : Nat :=
  if b.chargeThr = 0 then
    (match b.system with
      | .six => 5800
      | .twelve => 11600)
  else b.chargeThr

/-! ### Runs (R131) -/

/-- A run after a sample: it begins, goes on or ends. -/
def runNext (holds : Bool) (now : Nat) (run : Option Nat) : Option Nat :=
  if holds then some (run.getD now) else none

/-- A run is confirmed at a sample that falls `time` ms or more after its first. -/
def runConfirmed (run : Option Nat) (now time : Nat) : Bool :=
  match run with
  | none => false
  | some t => decide (t + time ≤ now)

/-- The supply sample taken into the buffer, S formed anew, the four runs brought up to date (R130, R131). -/
def Supply.sampleSupply (b : BudgetCfg) (now mv : Nat) (u : Supply) : Supply :=
  let samples := pushFour u.samples (min mv 20000)
  let v := meanOf samples
  { u with
    samples := samples
    value := v
    belowLow := runNext (decide (v < b.supplyLevel b.low)) now u.belowLow
    belowCritical := runNext (decide (v < b.supplyLevel b.critical)) now u.belowCritical
    aboveLow := runNext (decide (b.supplyLevel (b.low + 20) ≤ v)) now u.aboveLow
    aboveCritical := runNext (decide (b.supplyLevel (b.critical + 20) ≤ v)) now u.aboveCritical }

/-- R131: the supply state after a sample, by its table. -/
def Supply.stateNext (now : Nat) (u : Supply) : SupplyState :=
  match u.state with
  | .normal =>
    if runConfirmed u.belowCritical now 2000 then .critical
    else if runConfirmed u.belowLow now 2000 then .low
    else .normal
  | .low =>
    if runConfirmed u.belowCritical now 2000 then .critical
    else if runConfirmed u.aboveLow now 2000 then .normal
    else .low
  | .critical =>
    if runConfirmed u.aboveLow now 2000 then .normal
    else if runConfirmed u.aboveCritical now 2000 then .low
    else .critical

/-- The charge sample taken, and its two runs (R132). -/
def Supply.sampleCharge (b : BudgetCfg) (now mv : Nat) (u : Supply) : Supply :=
  let samples := pushFour u.chargeSamples (min mv 20000)
  let v := meanOf samples
  { u with
    chargeSamples := samples
    chargeValue := v
    atThreshold := runNext (decide (b.chargeLevel ≤ v)) now u.atThreshold
    belowThreshold := runNext (decide (v < b.chargeLevel)) now u.belowThreshold }

/-- R132: the charge state after a sample. -/
def Supply.chargingNext (now : Nat) (u : Supply) : Bool :=
  if u.charging then !runConfirmed u.belowThreshold now 500 else runConfirmed u.atThreshold now 500

/-! ### The charge lamp (R133) -/

/-- The charge-lamp demand (R3, R133). -/
def chargePlacement (c : CircuitId) : Placement := ⟨c, .charge, .on, some 1000, 10, none, true⟩

/-- The circuit on which the charge lamp is called for: RUN, NOT-CHARGING and a circuit configured. -/
def State.lampWanted (s : State) : Option CircuitId :=
  if s.sbu.power = .run ∧ ¬ s.sbu.charging then s.cfg.budget.lamp else none

/-- Whether the charge-lamp demand stands on a circuit. -/
def State.lampStandsOn (s : State) (c : CircuitId) : Bool :=
  s.sbu.lamp && (s.dt.keyed .charge c).any (fun q => decide (q.2.circuit = c))

/-- The three facts formed anew and acted on (R133). -/
def State.chargeLamp (s : State) : State :=
  match s.lampWanted with
  | some c =>
    if s.lampStandsOn c then s
    else ({ s with sbu := { s.sbu with lamp := true } } : State).placeInternal (chargePlacement c)
  | none =>
    if s.sbu.lamp then ({ s with sbu := { s.sbu with lamp := false } } : State).retireKey .charge 0 else s

/-! ### Samples (R130 to R132) -/

/-- The supply half of a sample: S, the runs, the state; SUPPLY-LOW at each entry into LOW or CRITICAL, and an
evaluation event at each change (R131). -/
def State.takeSupply (mv : Nat) (s : State) : State :=
  let u := s.sbu.sampleSupply s.cfg.budget s.now mv
  let st := u.stateNext s.now
  { s with
    sbu := { u with state := st }
    lp := s.lp.raiseIf .supplyLow (decide (st ≠ s.sbu.state) && decide (st ≠ .normal))
    evaluate := s.evaluate || decide (st ≠ s.sbu.state) }

/-- The charge half of a sample: the charge value, the runs, the state; NOT-CHARGING raised on an entry while RUN, an
evaluation event at each change (R132), and the charge lamp (R133). -/
def State.takeCharge (mv : Nat) (s : State) : State :=
  let u := s.sbu.sampleCharge s.cfg.budget s.now mv
  let ch := u.chargingNext s.now
  let t := { s with
    sbu := { u with charging := ch }
    lp := s.lp.raiseIf .notCharging (s.sbu.charging && !ch && decide (s.sbu.power = .run))
    evaluate := s.evaluate || decide (ch ≠ s.sbu.charging) }
  if ch = s.sbu.charging then t else t.chargeLamp

/-! ### Power states (R134 to R136) -/

/-- A change between RUN and PARKED: an evaluation event, and the charge lamp (R134). -/
def State.setPower (p : Power) (s : State) : State :=
  if s.sbu.power = p then s
  else ({ s with sbu := { s.sbu with power := p }, evaluate := true } : State).chargeLamp

/-- The channel with its conversions stopped and its buffer empty (R90, R136). -/
def Channel.stopConversions (ch : Channel) : Channel := { ch with codes := [], convertDue := none }

/-- The channel with its conversions resumed on an empty buffer; a disabled one makes none (R90). -/
def Channel.resumeConversions (now : Nat) (ch : Channel) : Channel :=
  { ch with codes := [], convertDue := if ch.state = .disabled then none else some (now + 20) }

/-- Into ASLEEP (R136): sampling, runs, conversions and the evaluation timer stop. The sleep timer, at its 30 s, stops
too and stands absent, so that a wake finds it at 0 (log 44). -/
def State.enterAsleep (s : State) : State :=
  { s with
    sbu := { s.sbu with
      power := .asleep
      belowLow := none
      belowCritical := none
      aboveLow := none
      aboveCritical := none
      atThreshold := none
      belowThreshold := none
      sleepSince := none
      evaluateDue := none
      sampleDue := none }
    ibu := { s.ibu with sampleDue := none }
    ge := Vector.ofFn (fun g : Fin 3 => (s.ge[g]).stopConversions) }

/-- Out of ASLEEP (R136): RUN or PARKED by the ignition state, sampling restarted on empty buffers, counters at 0 (R49),
the evaluation timer restarted, an evaluation event. The sleep timer starts from 0 at the wake where its conditions hold
in PARKED (R135; where only a raw change of an input woke the part: log 44). A part that is awake is not affected. -/
def State.wake (s : State) : State :=
  if s.sbu.power = .asleep then
    { s with
      sbu := { s.sbu with
        power := if s.ibu.ignition then .run else .parked
        samples := []
        chargeSamples := []
        evaluateDue := some (s.now + 1000)
        sampleDue := some (s.now + 20) }
      ibu := { s.ibu with
        inputs := Vector.ofFn (fun i : Fin 12 => { s.ibu.inputs[i] with counter := 0 })
        sampleDue := some (s.now + 5) }
      ge := Vector.ofFn (fun g : Fin 3 => (s.ge[g]).resumeConversions s.now)
      evaluate := true }
  else s

end Sys2Proof.Machine
end

