-- ==== Sys2Proof/Machine/Inputs.lean ====
section
/-! DEFINITION. The Input Binding Unit (03_switch_inputs_and_bindings.md): debounce, conditions, the actions of the
bindings, the ignition and its announcements. -/

namespace Sys2Proof.Machine

open Sys2Proof

/-! ### Sense inputs (R46 to R48) -/

/-- One sample of one input, against the debounce count: R47 for a known input, R48 for an UNKNOWN one. -/
def SenseInput.sample (count : Nat) (pin : Bool) (x : SenseInput) : SenseInput :=
  match x.level with
  | some l =>
    if pin = l then { x with counter := 0 }
    else if count ≤ x.counter + 1 then ⟨some pin, none, 0⟩
    else { x with counter := x.counter + 1 }
  | none =>
    let k := if x.last = some pin then x.counter + 1 else 1
    if count ≤ k then ⟨some pin, none, 0⟩ else ⟨none, some pin, k⟩

/-- R46: ACTIVE is `some true`, INACTIVE `some false`, UNKNOWN `none`. -/
def State.inputActive (s : State) (i : InputId) : Option Bool :=
  ((s.ibu.inputs[i]).level).map (fun l => decide (l = s.cfg.link.activeHigh.getLsbD i.val))

/-- Whether an input's debounced level is known. -/
def State.inputKnown (s : State) (i : InputId) : Bool := (s.ibu.inputs[i]).level.isSome

/-- R50: the ignition state that the ignition input calls for. -/
def State.ignitionLevel (s : State) : Bool := decide (s.inputActive s.cfg.link.ignition = some true)

/-! ### Conditions (R52) -/

/-- Whether a binding reads an input of a set. -/
def BindingCfg.reads (which : InputId → Bool) (b : BindingCfg) : Bool := which b.primary || b.second.any which

/-- Whether every input a binding's condition reads is known, and for a gated binding the ignition input (R52). -/
def State.bindingKnown (s : State) (b : BindingCfg) : Bool :=
  s.inputKnown b.primary && b.second.all s.inputKnown && (!b.gated || s.inputKnown s.cfg.link.ignition)

/-- The condition of a binding (R52). -/
def State.conditionHolds (s : State) (b : BindingCfg) : Bool :=
  decide (s.inputActive b.primary = some b.primaryActive) &&
    b.second.all (fun i => decide (s.inputActive i = some b.secondActive)) && (!b.gated || s.ibu.ignition)

/-! ### Held items (R53 to R57) -/

/-- What the unit keeps for one binding, replaced. -/
def State.setBinding (n : BindingId) (b : BindingState) (s : State) : State :=
  { s with ibu := { s.ibu with bindings := s.ibu.bindings.set n b } }

/-- The held item of one binding, replaced. -/
def State.setHeld (n : BindingId) (h : Held) (s : State) : State :=
  s.setBinding n { s.ibu.bindings[n] with held := h }

/-- The demand of a binding (R3, R53, R55): with the binding's hold for TIMED alone. -/
def bindingPlacement (b : BindingCfg) (n : BindingId) (c : CircuitId) (timed : Bool) : Placement :=
  ⟨c, .binding n, .on, some b.level, b.priority, if timed then some b.hold else none, b.gated⟩

/-- The binding's demand placed on its target; its held item becomes DEMAND (R53, R55). -/
def State.holdDemand (n : BindingId) (c : CircuitId) (timed : Bool) (s : State) : State :=
  (s.setHeld n .demand).placeInternal (bindingPlacement s.cfg.bindings[n] n c timed)

/-- The binding's flash request placed; its held item becomes REQUEST (R56). -/
def State.holdRequest (n : BindingId) (lanes : LaneSet) (s : State) : State :=
  (s.setHeld n .request).placeRequest n lanes

/-- What the binding holds retired; its held item becomes NONE (R53, R54, R56, R58, R60). -/
def State.dropHeld (n : BindingId) (s : State) : State :=
  match (s.ibu.bindings[n]).held with
  | .none => s
  | .demand => (s.setHeld n .none).retireKey (.binding n) 0
  | .request => (s.setHeld n .none).retireRequest n

/-! ### Evaluation (R52 to R56) -/

/-- What a binding does when its condition has moved to `now`; `edge`: from FALSE to TRUE. -/
def State.act (n : BindingId) (edge now : Bool) (s : State) : State :=
  match (s.cfg.bindings[n]).action with
  | .whileOn c => if now then s.holdDemand n c false else s.dropHeld n
  | .flashWhile lanes => if now then s.holdRequest n lanes else s.dropHeld n
  | .toggle c =>
    if edge then (if (s.ibu.bindings[n]).held = .none then s.holdDemand n c false else s.dropHeld n) else s
  | .timed c => if edge then s.holdDemand n c true else s
  | .flashToggle lanes =>
    if edge then (if (s.ibu.bindings[n]).held = .none then s.holdRequest n lanes else s.dropHeld n) else s

/-- The condition of an evaluated binding. -/
def conditionOf (holds : Bool) : Condition := if holds then .true else .false

/-- One evaluation of a binding (R52): made only when it is enabled and its inputs are known; one that leaves the
condition unchanged does nothing. -/
def State.evaluateBinding (n : BindingId) (s : State) : State :=
  let b := s.cfg.bindings[n]
  let old := s.ibu.bindings[n]
  let holds := s.conditionHolds b
  if b.enable && s.bindingKnown b && decide (old.cond ≠ conditionOf holds) then
    (s.setBinding n { old with cond := conditionOf holds }).act n (decide (old.cond = .false) && holds) holds
  else s

/-- A gated binding at an ignition-off event (R58): its condition goes FALSE and it gives up what it holds. It is
made at every enabled gated binding that has been evaluated or whose inputs are known (log 22). -/
def State.ignitionOffBinding (n : BindingId) (s : State) : State :=
  let b := s.cfg.bindings[n]
  let old := s.ibu.bindings[n]
  if b.enable && (decide (old.cond ≠ .notEvaluated) || s.bindingKnown b) then
    (s.setBinding n { old with cond := .false }).dropHeld n
  else s

/-- Steps 1 to 3 of R60 at one binding; the item it holds is retired by its key or its request. -/
def State.editBinding (n : BindingId) (s : State) : State :=
  ((s.dropHeld n).setBinding n ⟨.notEvaluated, .none⟩).evaluateBinding n

/-- The bindings of a list taken in its order, each that the event touches (R52); at an ignition-off event the gated
ones by R58. -/
def State.takeBindings (touched : BindingCfg → Bool) (off : Bool) (which : List BindingId) (s : State) : State :=
  which.foldl (fun t n =>
    if touched t.cfg.bindings[n] then
      (if off && (t.cfg.bindings[n]).gated then t.ignitionOffBinding n else t.evaluateBinding n)
    else t) s

/-! ### The ignition (R50) -/

/-- The other blocks at an ignition-on event (R92, R134). -/
def State.announceOn (s : State) : State :=
  (allChannels.foldl (fun t g => t.gaugeOn g) s).setPower .run

/-- The other blocks at an ignition-off event (R20, R96, R134). -/
def State.announceOff (s : State) : State :=
  (allChannels.foldl (fun t g => t.gaugeOff g) (s.retireAndTell (fun d => d.gated))).setPower .parked

/-- The announcement of the ignition state as it now stands. -/
def State.announce (s : State) : State := if s.ibu.ignition then s.announceOn else s.announceOff

/-- The announcement and the unit's own bindings at one ignition event. R50 leaves them unordered: the announcement
falls before the binding whose number `order` gives, or after them all (log 4). -/
def State.ignitionEvent (touched : BindingCfg → Bool) (off : Bool) (s : State) : State :=
  let (k, s) := s.choose 17
  (((s.takeBindings touched off (allBindings.take k)).announce).takeBindings touched off (allBindings.drop k))

/-- The ignition state formed anew, with its event if it changes; the touched bindings are evaluated once (R47, R50,
R52). -/
def State.formIgnition (touched : BindingCfg → Bool) (s : State) : State :=
  let new := s.ignitionLevel
  let t := { s with ibu := { s.ibu with ignition := new } }
  if new = s.ibu.ignition then t.takeBindings touched false allBindings else t.ignitionEvent touched (!new)

/-! ### Samples (R47) -/

/-- All twelve inputs after one sample. -/
def Inputs.sampled (u : Inputs) (count : Nat) (levels : BitVec 12) : Vector SenseInput 12 :=
  Vector.ofFn (fun i : Fin 12 => (u.inputs[i]).sample count (levels.getLsbD i.val))

/-- One sample (R47): its debounced changes are one change of the inputs, which returns the sleep timer to 0 (R135). A
gated binding's inputs include the ignition input. -/
def State.senseSample (levels : BitVec 12) (s : State) : State :=
  let inputs := s.ibu.sampled s.cfg.link.debounce levels
  let changed : InputId → Bool := fun i => decide ((inputs[i]).level ≠ (s.ibu.inputs[i]).level)
  let t := { s with ibu := { s.ibu with inputs := inputs, sampleDue := some (s.now + 5) } }
  if allInputs.any changed then
    t.restartSleep.formIgnition (fun b => b.reads changed || (b.gated && changed s.cfg.link.ignition))
  else t

end Sys2Proof.Machine
end

