-- ==== Sys2Proof/Machine/Layouts.lean ====
section
/-! DEFINITION. The layouts of R166: how an entry of each table is taken from its bytes and shown as bytes, and the
data of every read command. -/

namespace Sys2Proof.Machine

open Sys2Proof

/-! ### Fields -/

/-- A value, refused unless the test holds (R158). -/
def checked {α : Type} (ok : Bool) (v : α) : Option α := if ok then some v else none

/-- Whether a value lies in a range, ends included. -/
def within (lo hi v : Nat) : Bool := decide (lo ≤ v) && decide (v ≤ hi)

/-- The code 0xFF: DEFAULT, or absent. -/
def isFF (b : Byte) : Bool := decide (b = 0xFF)

/-- A field that may be written as DEFAULT (R25). -/
def orDefault (dflt : Nat) (b : Byte) : Nat := if isFF b then dflt else b.toNat

/-- A number below a bound. -/
def finOf (n v : Nat) : Option (Fin n) := if h : v < n then some ⟨v, h⟩ else none

/-- The set whose members are the listed numbers (R166: "the value 2 to the power n marks member n"). -/
def setOf (members : List Nat) : Nat := (members.map (fun n => 2 ^ n)).sum

/-- A yes or no code. -/
def yesNo (b : Bool) : Byte := if b then 1 else 0

/-! ### CIRCUIT (R25) -/

/-- The kind codes. -/
def kindOf (b : Byte) : Option Kind :=
  match b.toNat with
  | 0 => some .none
  | 1 => some .filament
  | 2 => some .led
  | 3 => some .motor
  | 4 => some .gauge
  | _ => none

/-- The code of a kind. -/
def Kind.code : Kind → Byte
  | .none => 0
  | .filament => 1
  | .led => 2
  | .motor => 3
  | .gauge => 4

/-- Whether the inrush fields are forced for a kind (R25). -/
def Kind.forcesInrush (k : Kind) : Bool := decide (k ≠ .filament)

/-- Whether the lamp-test field is forced for a kind (R25). -/
def Kind.forcesLampTest (k : Kind) : Bool := !k.isLamp

/-- The inrush factor as stored. -/
def takeInrushFactor (kind : Kind) (b : Byte) : Option Nat :=
  if kind.forcesInrush then some 1 else checked (within 1 8 (orDefault 6 b)) (orDefault 6 b)

/-- The inrush time as stored. -/
def takeInrushTime (kind : Kind) (b : Byte) : Option Nat :=
  if kind.forcesInrush then some 0
  else checked (isFF b || (within 0 250 b.toNat && decide (b.toNat % 10 = 0))) (orDefault 100 b)

/-- The lamp-out threshold as stored. -/
def takeLampOut (b : Byte) : Option Nat :=
  checked (within 10 90 (orDefault 50 b) && decide (orDefault 50 b % 5 = 0)) (orDefault 50 b)

/-- The retry limit as stored. -/
def takeRetryLimit (b : Byte) : Option Nat := checked (within 0 7 (orDefault 3 b)) (orDefault 3 b)

/-- The lamp-test field as stored. -/
def takeLampTest (kind : Kind) (b : Byte) : Option Bool :=
  if kind.forcesLampTest then some false else yesNoOf b

/-- One CIRCUIT entry taken from its bytes (R25, R158). -/
def CircuitCfg.ofBytes : List Byte → Option CircuitCfg
  | [r0, r1, t0, t1, kd, cl, fa, ti, lo, rl, lt, pad] => do
    let kind ← kindOf kd
    let rated ← checked (within 0 1500 (nat16 r0 r1)) (nat16 r0 r1)
    let trip ← checked (within 0 3000 (nat16 t0 t1)) (nat16 t0 t1)
    let cls ← checked (within 0 3 cl.toNat) cl.toNat
    let factor ← takeInrushFactor kind fa
    let time ← takeInrushTime kind ti
    let lamp ← takeLampOut lo
    let retry ← takeRetryLimit rl
    let test ← takeLampTest kind lt
    checked (decide (pad = 0)) ⟨rated, trip, kind, cls, factor, time, lamp, retry, test⟩
  | _ => none

/-- One CIRCUIT entry shown. -/
def CircuitCfg.bytes (k : CircuitCfg) : List Byte :=
  le16 k.rated ++ le16 k.trip ++
    [k.kind.code, byteOf k.cls, byteOf k.inrushFactor, byteOf k.inrushTime, byteOf k.lampOut, byteOf k.retryLimit,
      yesNo k.lampTest, 0]

/-! ### BINDING (R51) -/

/-- The action of an action code and a target byte. -/
def actionOf (code target : Byte) : Option Action :=
  match code.toNat with
  | 0 => (circuitOf target).map .whileOn
  | 1 => (circuitOf target).map .toggle
  | 2 => (circuitOf target).map .timed
  | 3 => (laneSetOf target).map .flashWhile
  | 4 => (laneSetOf target).map .flashToggle
  | _ => none

/-- The action code and target byte of an action. -/
def Action.bytes : Action → List Byte
  | .whileOn c => [0, byteOf c.val]
  | .toggle c => [1, byteOf c.val]
  | .timed c => [2, byteOf c.val]
  | .flashWhile l => [3, byteOf l.code]
  | .flashToggle l => [4, byteOf l.code]

/-- The second input of the inputs byte: 15 absent, 12 to 14 no input. -/
def secondOf (n : Nat) : Option (Option InputId) := if n = 15 then some none else (finOf 12 n).map some

/-- One BINDING entry taken from its bytes (R51, R158); a level above 1000 is stored as 1000. -/
def BindingCfg.ofBytes : List Byte → Option BindingCfg
  | [fl, io, ac, tg, l0, l1, h0, h1] => do
    let primary ← finOf 12 (io.toNat % 16)
    let second ← secondOf (io.toNat / 16)
    let action ← actionOf ac tg
    let hold ← checked (decide (nat16 h0 h1 ≠ 0)) (nat16 h0 h1)
    some
      { enable := flagBit fl 0
        primary := primary
        primaryActive := flagBit fl 2
        second := second
        secondActive := flagBit fl 3
        action := action
        level := min 1000 (nat16 l0 l1)
        priority := fl.toNat / 16
        hold := hold
        gated := flagBit fl 1 }
  | _ => none

/-- One BINDING entry shown. -/
def BindingCfg.bytes (b : BindingCfg) : List Byte :=
  [byteOf (bit 1 b.enable + bit 2 b.gated + bit 4 b.primaryActive + bit 8 b.secondActive + 16 * b.priority),
    byteOf (b.primary.val + 16 * (match b.second with | none => 15 | some i => i.val))] ++
    b.action.bytes ++ le16 b.level ++ le16 b.hold

/-! ### LANE (R70), FLASH (R73) -/

/-- The members of a lane: circuits, none twice. -/
def takeMembers (codes : List Byte) : Option (List CircuitId) := do
  let members ← codes.mapM circuitOf
  checked (decide members.Nodup) members

/-- One LANE entry taken from its bytes (R70, R158); members beyond the count are disregarded. -/
def LaneCfg.ofBytes : List Byte → Option LaneCfg
  | [n, m1, m2, m3, m4, l0, l1, p] => do
    let count ← checked (within 0 4 n.toNat) n.toNat
    let members ← takeMembers ([m1, m2, m3, m4].take count)
    let priority ← checked (within 0 15 p.toNat) p.toNat
    some ⟨members, min 1000 (nat16 l0 l1), priority⟩
  | _ => none

/-- One LANE entry shown: members beyond the count as 0xFF. -/
def LaneCfg.bytes (l : LaneCfg) : List Byte :=
  [byteOf l.members.length] ++
    (l.members.map (fun c => byteOf c.val) ++ List.replicate 4 (0xFF : Byte)).take 4 ++
    le16 l.level ++ [byteOf l.priority]

/-- A flash time as stored: clamped to 100 to 1000 and rounded down to a multiple of 10 (R73). -/
def flashTime (v : Nat) : Nat := max 100 (min 1000 v) / 10 * 10

/-- The tick-mode codes. -/
def tickModeOf (b : Byte) : Option TickMode :=
  match b.toNat with
  | 0 => some .off
  | 1 => some .pulse
  | 2 => some .follow
  | _ => none

/-- The code of a tick mode. -/
def TickMode.code : TickMode → Byte
  | .off => 0
  | .pulse => 1
  | .follow => 2

/-- The FLASH entry taken from its bytes (R73, R158). -/
def FlashCfg.ofBytes : List Byte → Option FlashCfg
  | [n0, n1, f0, f1, fa, sy, ti] => do
    let fast ← yesNoOf fa
    let sync ← yesNoOf sy
    let tick ← tickModeOf ti
    some ⟨flashTime (nat16 n0 n1), flashTime (nat16 f0 f1), fast, sync, tick⟩
  | _ => none

/-- The FLASH entry shown. -/
def FlashCfg.bytes (f : FlashCfg) : List Byte :=
  le16 f.onTime ++ le16 f.offTime ++ [yesNo f.fast, yesNo f.sync, f.tick.code]

/-! ### GAUGE (R87, R88) and the curves (R110) -/

/-- One GAUGE entry taken from its bytes (R88, R158). A flags byte with bits beyond the four names no value (log 16). -/
def GaugeCfg.ofBytes : List Byte → Option GaugeCfg
  | [fl, se, dr, o0, o1, sh, da, v0, v1, ho, sp, dp, w0, w1, hy, de, wc, wp] => do
    let flags ← checked (decide (fl.toNat < 16)) fl
    let sender ← channelOf se
    let drive ← circuitOf dr
    let openThr ← checked (within 900 999 (nat16 o0 o1)) (nat16 o0 o1)
    let shortThr ← checked (within 0 100 sh.toNat) sh.toNat
    let stabilised ← checked (within 2000 12000 (nat16 v0 v1)) (nat16 v0 v1)
    let senderPoints ← checked (within 2 12 sp.toNat) sp.toNat
    let drivePoints ← checked (within 2 8 dp.toNat) dp.toNat
    let warnThr ← checked (within 0 1000 (nat16 w0 w1)) (nat16 w0 w1)
    let hysteresis ← checked (within 0 200 hy.toNat) hy.toNat
    let warnCircuit ← circuitOf wc
    let warnPriority ← checked (within 0 15 wp.toNat) wp.toNat
    some
      { enable := flagBit flags 0
        rangeHigh := flagBit flags 1
        warnEnable := flagBit flags 2
        warnAbove := flagBit flags 3
        sender := sender
        drive := drive
        openThr := openThr
        shortThr := shortThr
        damping := da.toNat
        stabilised := stabilised
        holdTime := ho.toNat
        senderPoints := senderPoints
        drivePoints := drivePoints
        warnThr := warnThr
        hysteresis := hysteresis
        warnDelay := de.toNat
        warnCircuit := warnCircuit
        warnPriority := warnPriority }
  | _ => none

/-- One GAUGE entry shown. -/
def GaugeCfg.bytes (g : GaugeCfg) : List Byte :=
  [byteOf (bit 1 g.enable + bit 2 g.rangeHigh + bit 4 g.warnEnable + bit 8 g.warnAbove), byteOf g.sender.val,
    byteOf g.drive.val] ++ le16 g.openThr ++ [byteOf g.shortThr, byteOf g.damping] ++ le16 g.stabilised ++
    [byteOf g.holdTime, byteOf g.senderPoints, byteOf g.drivePoints] ++ le16 g.warnThr ++
    [byteOf g.hysteresis, byteOf g.warnDelay, byteOf g.warnCircuit.val, byteOf g.warnPriority]

/-- One curve point taken from its bytes, against the range of its x (R110, R158). -/
def Point.ofBytes (xMax : Nat) : List Byte → Option Point
  | [x0, x1, y0, y1] =>
    checked (within 0 xMax (nat16 x0 x1) && within 0 1000 (nat16 y0 y1)) ⟨nat16 x0 x1, nat16 y0 y1⟩
  | _ => none

/-- One curve point shown. -/
def Point.bytes (p : Point) : List Byte := le16 p.x ++ le16 p.y

/-- The greatest x of a sender point, in quarter-ohms. -/
def senderXMax : Nat := 16383

/-- The greatest x of a drive point. -/
def driveXMax : Nat := 1000

/-! ### FAN (R117), BUDGET (R129), LINK (R46, R147, R148, R162) -/

/-- Strictly ascending. -/
def strictlyAscending : List Nat → Bool
  | [] => true
  | [_] => true
  | a :: b :: rest => decide (a < b) && strictlyAscending (b :: rest)

/-- The FAN entry taken from its bytes (R117, R158). -/
def FanCfg.ofBytes : List Byte → Option FanCfg
  | [n, a0, a1, b0, b1, c0, c1, d0, d1, s0, s1, r0, r1, q0, q1] => do
    let count ← checked (within 1 4 n.toNat) n.toNat
    let steps : Vector Nat 4 := #v[nat16 a0 a1, nat16 b0 b1, nat16 c0 c1, nat16 d0 d1]
    let steps ← checked (steps.toList.all (within 1 1000) && strictlyAscending (steps.toList.take count)) steps
    let start ← checked (within 100 1000 (nat16 s0 s1)) (nat16 s0 s1)
    let rate ← checked (within 10 1000 (nat16 r0 r1)) (nat16 r0 r1)
    let stall ← checked (within 0 3000 (nat16 q0 q1)) (nat16 q0 q1)
    some ⟨count, steps, start, rate, stall⟩
  | _ => none

/-- The FAN entry shown. -/
def FanCfg.bytes (f : FanCfg) : List Byte :=
  [byteOf f.count] ++ f.steps.toList.flatMap le16 ++ le16 f.start ++ le16 f.rate ++ le16 f.stall

/-- The system-voltage codes. -/
def systemOf (b : Byte) : Option SystemVoltage :=
  match b.toNat with
  | 6 => some .six
  | 12 => some .twelve
  | _ => none

/-- The code of a system voltage. -/
def SystemVoltage.code : SystemVoltage → Byte
  | .six => 6
  | .twelve => 12

/-- The charge-lamp circuit: 0xFF absent. -/
def lampCircuitOf (b : Byte) : Option (Option CircuitId) := if isFF b then some none else (circuitOf b).map some

/-- The charge threshold: 0, or 1000 to 16000. -/
def chargeThrOk (v : Nat) : Bool := decide (v = 0) || within 1000 16000 v

/-- The BUDGET entry taken from its bytes (R129, R158). -/
def BudgetCfg.ofBytes : List Byte → Option BudgetCfg
  | [sv, d0, d1, b0, b1, p0, p1, l0, l1, c0, c1, e0, e1, m0, m1, y0, y1, t0, t1, lp] => do
    let system ← systemOf sv
    let dynamo ← checked (within 0 4000 (nat16 d0 d1)) (nat16 d0 d1)
    let battery ← checked (within 0 4000 (nat16 b0 b1)) (nat16 b0 b1)
    let park ← checked (within 0 4000 (nat16 p0 p1)) (nat16 p0 p1)
    let low ← checked (within 700 980 (nat16 l0 l1)) (nat16 l0 l1)
    let critical ← checked (within 500 960 (nat16 c0 c1)) (nat16 c0 c1)
    let derate ← checked (within 0 1000 (nat16 e0 e1)) (nat16 e0 e1)
    let margin ← checked (within 0 1000 (nat16 m0 m1)) (nat16 m0 m1)
    let delay ← checked (within 0 600 (nat16 y0 y1)) (nat16 y0 y1)
    let chargeThr ← checked (chargeThrOk (nat16 t0 t1)) (nat16 t0 t1)
    let lamp ← lampCircuitOf lp
    checked (decide (critical + 20 ≤ low))
      ⟨system, dynamo, battery, park, low, critical, derate, margin, delay, chargeThr, lamp⟩
  | _ => none

/-- The BUDGET entry shown. -/
def BudgetCfg.bytes (b : BudgetCfg) : List Byte :=
  [b.system.code] ++ le16 b.dynamo ++ le16 b.battery ++ le16 b.park ++ le16 b.low ++ le16 b.critical ++
    le16 b.derate ++ le16 b.margin ++ le16 b.delay ++ le16 b.chargeThr ++
    [match b.lamp with | none => 0xFF | some c => byteOf c.val]

/-- The address base: a multiple of 4 from 0x08 to 0x74 (R147). -/
def baseOk (v : Nat) : Bool := within 0x08 0x74 v && decide (v % 4 = 0)

/-- The LINK entry taken from its bytes (R46, R147, R158); members 12 to 15 of both sets are disregarded. -/
def LinkCfg.ofBytes : List Byte → Option LinkCfg
  | [a0, a1, de, ig, ba, gc, m0, m1] => do
    let debounce ← checked (within 2 15 de.toNat) de.toNat
    let ignition ← finOf 12 ig.toNat
    let base ← checked (baseOk ba.toNat) ba.toNat
    let general ← yesNoOf gc
    some ⟨BitVec.ofNat 12 (nat16 a0 a1), debounce, ignition, base, general, BitVec.ofNat 12 (nat16 m0 m1)⟩
  | _ => none

/-- The LINK entry shown. -/
def LinkCfg.bytes (l : LinkCfg) : List Byte :=
  le16 l.activeHigh.toNat ++
    [byteOf l.debounce, byteOf l.ignition.val, byteOf l.base, yesNo l.generalCall] ++ le16 l.mask.toNat

/-! ### Tables (R166) -/

/-- The table of a table code. -/
def tableOf (b : Byte) : Option Table :=
  match b.toNat with
  | 0x01 => some .circuit
  | 0x02 => some .binding
  | 0x03 => some .lane
  | 0x04 => some .flash
  | 0x05 => some .gauge
  | 0x06 => some (.sender 0)
  | 0x07 => some (.sender 1)
  | 0x08 => some (.sender 2)
  | 0x09 => some (.drive 0)
  | 0x0A => some (.drive 1)
  | 0x0B => some (.drive 2)
  | 0x0C => some .fan
  | 0x0D => some .budget
  | 0x0E => some .link
  | 0x10 => some .circuitState
  | 0x11 => some .gaugeState
  | 0x12 => some .demand
  | _ => none

/-- How many entries a table has. -/
def Table.entries : Table → Nat
  | .circuit => 16
  | .binding => 16
  | .lane => 2
  | .flash => 1
  | .gauge => 3
  | .sender _ => 12
  | .drive _ => 8
  | .fan => 1
  | .budget => 1
  | .link => 1
  | .circuitState => 16
  | .gaugeState => 3
  | .demand => 64

/-- How many bytes an entry of a table has. -/
def Table.entryBytes : Table → Nat
  | .circuit => 12
  | .binding => 8
  | .lane => 8
  | .flash => 7
  | .gauge => 18
  | .sender _ => 4
  | .drive _ => 4
  | .fan => 15
  | .budget => 20
  | .link => 8
  | .circuitState => 17
  | .gaugeState => 30
  | .demand => 11

/-- Whether a table is read only. -/
def Table.readOnly : Table → Bool
  | .circuitState => true
  | .gaugeState => true
  | .demand => true
  | .circuit => false
  | .binding => false
  | .lane => false
  | .flash => false
  | .gauge => false
  | .sender _ => false
  | .drive _ => false
  | .fan => false
  | .budget => false
  | .link => false

/-- The writable tables in ascending order of table code, CIRCUIT first and LINK last (R167). -/
def writableTables : List Table :=
  [.circuit, .binding, .lane, .flash, .gauge, .sender 0, .sender 1, .sender 2, .drive 0, .drive 1, .drive 2, .fan,
    .budget, .link]

/-- One entry of a writable table replaced by the entry its bytes give; none where the entry is refused by its own
table (R158) or the table has no such entry. -/
def LiveConfig.writeEntry (cfg : LiveConfig) (t : Table) (n : Nat) (bytes : List Byte) : Option LiveConfig :=
  match t with
  | .circuit => do
    let i ← finOf 16 n
    let e ← CircuitCfg.ofBytes bytes
    some { cfg with circuits := cfg.circuits.set i e }
  | .binding => do
    let i ← finOf 16 n
    let e ← BindingCfg.ofBytes bytes
    some { cfg with bindings := cfg.bindings.set i e }
  | .lane => do
    let i ← finOf 2 n
    let e ← LaneCfg.ofBytes bytes
    some { cfg with lanes := cfg.lanes.set i e }
  | .flash => do
    let _ ← finOf 1 n
    let e ← FlashCfg.ofBytes bytes
    some { cfg with flash := e }
  | .gauge => do
    let i ← finOf 3 n
    let e ← GaugeCfg.ofBytes bytes
    some { cfg with gauges := cfg.gauges.set i e }
  | .sender g => do
    let i ← finOf 12 n
    let e ← Point.ofBytes senderXMax bytes
    some { cfg with sender := cfg.sender.set g ((cfg.sender[g]).set i e) }
  | .drive g => do
    let i ← finOf 8 n
    let e ← Point.ofBytes driveXMax bytes
    some { cfg with drive := cfg.drive.set g ((cfg.drive[g]).set i e) }
  | .fan => do
    let _ ← finOf 1 n
    let e ← FanCfg.ofBytes bytes
    some { cfg with fan := e }
  | .budget => do
    let _ ← finOf 1 n
    let e ← BudgetCfg.ofBytes bytes
    some { cfg with budget := e }
  | .link => do
    let _ ← finOf 1 n
    let e ← LinkCfg.ofBytes bytes
    some { cfg with link := e }
  | .circuitState => none
  | .gaugeState => none
  | .demand => none

/-- Entries written one after another from entry `n` on. -/
def LiveConfig.writeEntries (cfg : LiveConfig) (t : Table) : Nat → List (List Byte) → Option LiveConfig
  | _, [] => some cfg
  | n, e :: rest => (cfg.writeEntry t n e).bind (fun cfg => cfg.writeEntries t (n + 1) rest)

/-- The complete entries of `size` bytes at the front of a stream, at most `count` of them (R157). -/
def cutEntries (size : Nat) : Nat → List Byte → List (List Byte)
  | 0, _ => []
  | count + 1, bytes =>
    if bytes.length < size then [] else bytes.take size :: cutEntries size count (bytes.drop size)

/-- The entry of a list as one of its positions, shown; nothing past its end. -/
def entryAt {α : Type} (l : List α) (show' : α → List Byte) (n : Nat) : List Byte :=
  match l[n]? with
  | none => []
  | some e => show' e

/-- One entry of a writable table shown. -/
def LiveConfig.entryBytes (cfg : LiveConfig) (t : Table) (n : Nat) : List Byte :=
  match t with
  | .circuit => entryAt cfg.circuits.toList CircuitCfg.bytes n
  | .binding => entryAt cfg.bindings.toList BindingCfg.bytes n
  | .lane => entryAt cfg.lanes.toList LaneCfg.bytes n
  | .flash => cfg.flash.bytes
  | .gauge => entryAt cfg.gauges.toList GaugeCfg.bytes n
  | .sender g => entryAt (cfg.sender[g]).toList Point.bytes n
  | .drive g => entryAt (cfg.drive[g]).toList Point.bytes n
  | .fan => cfg.fan.bytes
  | .budget => cfg.budget.bytes
  | .link => cfg.link.bytes
  | .circuitState => []
  | .gaugeState => []
  | .demand => []

/-! ### Demands (R21) -/

/-- The source byte of a demand or a request. -/
def Source.code : Source → Nat
  | .host => 0x00
  | .binding n => 0x10 + n.val
  | .lane .left => 0x20
  | .lane .right => 0x21
  | .warning g => 0x30 + g.val
  | .charge => 0x40
  | .test => 0x50

/-- The intent byte. -/
def Intent.code : Intent → Nat
  | .on => 0
  | .off => 1
  | .followLane => 2

/-- R17: the time remaining of a hold, in units of 100 ms, rounded up; 0 when absent. -/
def holdRemaining (now : Nat) (expiry : Option Nat) : Nat :=
  match expiry with
  | none => 0
  | some t => ceilDiv (t - now) 100

/-- The demand record of one slot (R21, R166). -/
def State.demandBytes (s : State) (slot : SlotId) : List Byte :=
  le16 (handleOf slot (s.dt.slots[slot]).tag) ++
    (match (s.dt.slots[slot]).demand with
      | none => List.replicate 9 0
      | some d =>
        [byteOf (1 + bit 2 d.gated + bit 4 d.expiry.isSome + bit 8 d.level.isSome), byteOf d.circuit.val,
          byteOf d.source.code, byteOf d.intent.code] ++
          le16 (d.level.getD 0) ++ [byteOf d.priority] ++ le16 (holdRemaining s.now d.expiry))

/-- LIST-CIRCUIT data (R21). -/
def State.listBytes (s : State) (c : CircuitId) : List Byte :=
  [byteOf (s.dt.lists[c]).length] ++
    (s.dt.lists[c]).flatMap (fun slot => le16 (handleOf slot (s.dt.slots[slot]).tag)) ++
    le16 (s.dt.res[c]).resolved ++ le16 (s.dt.res[c]).requested

/-! ### Circuits (R44) -/

/-- The state byte of a circuit. -/
def CircuitState.code : CircuitState → Nat
  | .off => 0
  | .starting => 1
  | .on => 2
  | .retryWait => 3
  | .locked => 4
  | .ramp => 5
  | .running => 6

/-- R44: the time since the last trip in units of 100 ms, rounded down, held at 65534; 65535 when absent. -/
def sinceTrip (now : Nat) (lastTrip : Option Nat) : Nat :=
  match lastTrip with
  | none => 65535
  | some t => min 65534 ((now - t) / 100)

/-- One CIRCUIT-STATE entry (R166). -/
def Circuit.bytes (now : Nat) (r : Circuit) : List Byte :=
  [byteOf r.state.code, byteOf (bit 1 r.flashing + bit 2 r.lampOut + bit 4 r.shed.isSome)] ++
    le16 r.resolved ++ le16 r.granted ++ le16 r.applied ++ le16 (r.winner.getD 0) ++ le16 r.current ++
    [byteOf r.confirm, byteOf r.trips] ++ le16 (sinceTrip now r.lastTrip) ++ [byteOf r.stall]

/-- READ-CIRCUIT data: the static part, then the dynamic part. -/
def State.circuitBytes (s : State) (c : CircuitId) : List Byte :=
  (s.cfg.circuits[c]).bytes ++ (s.cc[c]).bytes s.now

/-! ### Gauges (R104) -/

/-- The state byte of a gauge channel. -/
def GaugeState.code : GaugeState → Nat
  | .disabled => 0
  | .off => 1
  | .settling => 2
  | .tracking => 3
  | .faultHold => 4
  | .rest => 5
  | .direct => 6

/-- Whether a channel's warning demand stands, with its handle or 0. -/
def State.warningHandle (s : State) (g : ChannelId) : Nat :=
  if (s.ge[g]).warning then s.dt.keyedHandle (.warning g) 0 else 0

/-- READ-GAUGE data and one GAUGE-STATE entry (R104, R166). The count of codes is the one recorded by stage 1 (R106;
log 14). -/
def State.gaugeBytes (s : State) (g : ChannelId) : List Byte :=
  let ch := s.ge[g]
  [byteOf ch.state.code, byteOf ch.averaged] ++ le16 ch.code ++ le16 (ch.resistance.getD 0xFFFF) ++
    le16 (ch.reading.getD 0xFFFF) ++ le16 ch.filter ++ le16 (displayedOf ch.filter) ++ le16 ch.heater ++
    le16 ch.target ++ le16 ch.supply ++ le16 ch.duty ++
    [byteOf ch.faultRun, byteOf ch.goodRun, byteOf ch.hold,
      byteOf (bit 1 ch.warning + bit 2 ch.undersupply + bit 4 ch.directReading.isSome)] ++
    le16 (s.warningHandle g) ++ [byteOf ch.setCount, byteOf ch.clearCount] ++ le16 (ch.directReading.getD 0)

/-! ### Supply (R144) -/

/-- The supply-state byte. -/
def SupplyState.code : SupplyState → Nat
  | .normal => 0
  | .low => 1
  | .critical => 2

/-- The power-state byte. -/
def Power.code : Power → Nat
  | .run => 0
  | .parked => 1
  | .asleep => 2

/-- The time the sleep timer has run, in ms; 0 when it is not running (R135). -/
def State.sleepRun (s : State) : Nat :=
  match s.sbu.sleepSince with
  | none => 0
  | some t => s.now - t

/-- The shed set (R140). -/
def State.shedSet (s : State) : Nat :=
  setOf ((allCircuits.filter (fun c => (s.cc[c]).shed.isSome)).map Fin.val)

/-- READ-SUPPLY data (R144, R166). -/
def State.supplyBytes (s : State) : List Byte :=
  let u := s.sbu
  le16 u.value ++ [byteOf u.state.code] ++ le16 u.chargeValue ++ [yesNo u.charging, byteOf u.power.code] ++
    le16 (s.sleepRun / 100) ++ le16 u.last.allowance ++ le16 u.last.essential ++ le16 u.last.sheddable ++
    le16 u.last.total ++ [byteOf (bit 1 u.last.overload + bit 2 u.last.made + bit 4 u.lamp)] ++
    le16 s.shedSet ++ le16 (if u.lamp then s.dt.keyedHandle .charge 0 else 0)

/-! ### Status (R62, R85, R163) -/

/-- The set of inputs satisfying a test. -/
def inputSet (which : InputId → Bool) : Nat := setOf ((allInputs.filter which).map Fin.val)

/-- The condition code. -/
def Condition.code : Condition → Nat
  | .notEvaluated => 0
  | .false => 1
  | .true => 2

/-- The held-item code. -/
def Held.code : Held → Nat
  | .none => 0
  | .demand => 1
  | .request => 2

/-- The clock-state byte. -/
def ClockState.code : ClockState → Nat
  | .idle => 0
  | .on => 1
  | .off => 2
  | .waitSync => 3

/-- The store-state byte. -/
def StoreState.code : StoreState → Nat
  | .idle => 0
  | .saving _ => 1
  | .erasing _ => 2

/-- The flasher flags. -/
def Flasher.flags (fu : Flasher) : Nat :=
  bit 1 fu.synced + bit 2 fu.abandoned + bit 4 fu.phaseFast + bit 8 (fu.covers .left) +
    bit 16 (fu.covers .right) + bit 32 fu.lineRead

/-- How many requests the set holds. -/
def Flasher.requestCount (fu : Flasher) : Nat :=
  bit 1 fu.host.isSome + (allBindings.filter (fun n => (fu.requests[n]).isSome)).length

/-- The three bytes of the host's request, 0xFF in every byte when there is none. -/
def Flasher.hostRequestBytes (fu : Flasher) : List Byte :=
  match fu.host with
  | none => List.replicate 3 0xFF
  | some r => [byteOf Source.host.code, byteOf r.lanes.code, byteOf (r.count.getD 0xFF)]

/-- The three bytes of a binding's request; nothing when it holds none. -/
def Flasher.requestBytes (fu : Flasher) (n : BindingId) : List Byte :=
  match fu.requests[n] with
  | none => []
  | some lanes => [byteOf (Source.binding n).code, byteOf lanes.code, 0xFF]

/-- The eight requests of READ-STATUS. -/
def Flasher.requestsBytes (fu : Flasher) : List Byte :=
  fu.hostRequestBytes ++ (allBindings.flatMap fu.requestBytes ++ List.replicate 21 (0xFF : Byte)).take 21

/-- READ-STATUS data (R163, R166). -/
def State.statusBytes (s : State) : List Byte :=
  le16 s.lp.pending.toNat ++ le16 s.cfg.link.mask.toNat ++ [yesNo s.attentionLow] ++
    le16 (inputSet s.inputKnown) ++ le16 (inputSet (fun i => decide (s.inputActive i = some true))) ++ [yesNo s.ibu.ignition] ++
    allBindings.map (fun n => byteOf ((s.ibu.bindings[n]).cond.code + 16 * (s.ibu.bindings[n]).held.code)) ++
    [byteOf s.fu.clock.code, byteOf s.fu.flags, byteOf s.fu.requestCount] ++ s.fu.requestsBytes ++
    [byteOf s.cs.state.code, yesNo s.cs.lock]

/-! ### Windows (R155, R156) -/

/-- One entry of any table as it stands. -/
def State.entryBytes (s : State) (t : Table) (n : Nat) : List Byte :=
  match t with
  | .circuitState => (finOf 16 n).elim [] (fun c => (s.cc[c]).bytes s.now)
  | .gaugeState => (finOf 3 n).elim [] s.gaugeBytes
  | .demand => (finOf 64 n).elim [] s.demandBytes
  | .circuit => s.cfg.entryBytes .circuit n
  | .binding => s.cfg.entryBytes .binding n
  | .lane => s.cfg.entryBytes .lane n
  | .flash => s.cfg.entryBytes .flash n
  | .gauge => s.cfg.entryBytes .gauge n
  | .sender g => s.cfg.entryBytes (.sender g) n
  | .drive g => s.cfg.entryBytes (.drive g) n
  | .fan => s.cfg.entryBytes .fan n
  | .budget => s.cfg.entryBytes .budget n
  | .link => s.cfg.entryBytes .link n

/-- How many entries a window holds. -/
def Window.count (w : Window) : Nat := w.last + 1 - w.first

/-- The entries of a window (R156). -/
def State.windowBytes (s : State) (w : Window) : List Byte :=
  (List.range w.count).flatMap (fun k => s.entryBytes w.table (w.first + k))

end Sys2Proof.Machine
end

