-- ==== Sys2Proof/Config.lean ====
section
/-! DEFINITION. What the spec leaves open as a value. One free value: what a page of the image holds when a save
or an erase is cut short while that page is in hand. -/

namespace Sys2Proof

/-- FREE VALUE (log 7). R170: "the page in hand may be erased or partly programmed"; no rule says which bytes it
then holds. `cutByte n i` is byte i of the page in hand at the n-th cut. It has no body: no proof can use a value
of it. -/
opaque Config.cutByte : Nat → Nat → Byte

end Sys2Proof
end

