-- ==== Sys2Proof/Machine/Lawful.lean ====
section
/-! DEFINITION. The cross-table checks of R159, each a function of the whole configuration as it would stand, and which
of them a write to each table is judged by. -/

namespace Sys2Proof.Machine

open Sys2Proof

/-- A class 0 circuit of kind FILAMENT or LED. -/
def CircuitCfg.essentialLamp (k : CircuitCfg) : Bool := k.kind.isLamp && decide (k.cls = 0)

/-- A class 0 circuit of kind GAUGE. -/
def CircuitCfg.essentialGauge (k : CircuitCfg) : Bool := decide (k.kind = .gauge) && decide (k.cls = 0)

/-- The enabled channels. -/
def LiveConfig.enabledChannels (cfg : LiveConfig) : List ChannelId :=
  allChannels.filter (fun g => (cfg.gauges[g]).enable)

/-- No two enabled channels agree on a field. -/
def LiveConfig.noneShared {α : Type} [DecidableEq α] (cfg : LiveConfig) (field : GaugeCfg → α) : Bool :=
  decide (cfg.enabledChannels.map (fun g => field cfg.gauges[g])).Nodup

/-- R159, row 1: every circuit with a demand on its list is of a kind that takes demands. -/
def LiveConfig.demandsStand (cfg : LiveConfig) (occupied : CircuitId → Bool) : Bool :=
  allCircuits.all (fun c => !occupied c || (cfg.circuits[c]).kind.takesDemands)

/-- R159, row 2: at most one circuit of kind MOTOR. -/
def LiveConfig.oneMotor (cfg : LiveConfig) : Bool :=
  decide ((allCircuits.filter (fun c => decide ((cfg.circuits[c]).kind = .motor))).length ≤ 1)

/-- R159, row 3: an enabled demand action targets a circuit that takes demands. -/
def LiveConfig.targetsStand (cfg : LiveConfig) : Bool :=
  allBindings.all (fun n =>
    !(cfg.bindings[n]).enable ||
      ((cfg.bindings[n]).action.circuit?).all (fun c => (cfg.circuits[c]).kind.takesDemands))

/-- R51 and R159, row 4: at most seven entries, enabled or not, carry a flash action. -/
def LiveConfig.sevenFlash (cfg : LiveConfig) : Bool :=
  decide ((allBindings.filter (fun n => (cfg.bindings[n]).action.isFlash)).length ≤ 7)

/-- R70 and R159, row 5: every lane member is a class 0 lamp. -/
def LiveConfig.membersStand (cfg : LiveConfig) : Bool :=
  allSides.all (fun side => (cfg.lane side).members.all (fun c => (cfg.circuits[c]).essentialLamp))

/-- R88 and R159, row 6: every enabled channel drives a class 0 GAUGE circuit of its own. -/
def LiveConfig.drivesStand (cfg : LiveConfig) : Bool :=
  cfg.enabledChannels.all (fun g => (cfg.circuits[(cfg.gauges[g]).drive]).essentialGauge) &&
    cfg.noneShared GaugeCfg.drive

/-- R88 and R159, row 7: no two enabled channels read one sender input. -/
def LiveConfig.sendersStand (cfg : LiveConfig) : Bool := cfg.noneShared GaugeCfg.sender

/-- R88 and R159, row 8: an enabled channel with its warning enabled names a class 0 lamp. -/
def LiveConfig.warningsStand (cfg : LiveConfig) : Bool :=
  cfg.enabledChannels.all (fun g =>
    !(cfg.gauges[g]).warnEnable || (cfg.circuits[(cfg.gauges[g]).warnCircuit]).essentialLamp)

/-- R110 and R159, row 9: both curves in use of every enabled channel are well formed. -/
def LiveConfig.curvesStand (cfg : LiveConfig) : Bool :=
  cfg.enabledChannels.all (fun g => curveWellFormed (cfg.senderCurve g) && curveWellFormed (cfg.driveCurve g))

/-- R129 and R159, row 10: the charge-lamp circuit, if any, is a class 0 lamp. -/
def LiveConfig.lampStands (cfg : LiveConfig) : Bool := cfg.budget.lamp.all (fun c => (cfg.circuits[c]).essentialLamp)

/-- The checks a write to a table is judged by, the configuration as it would stand (R159, right column). `occupied`:
the circuit's ranked list holds a demand. -/
def LiveConfig.accepts (cfg : LiveConfig) (occupied : CircuitId → Bool) : Table → Bool
  | .circuit =>
    cfg.demandsStand occupied && cfg.oneMotor && cfg.targetsStand && cfg.membersStand && cfg.drivesStand &&
      cfg.warningsStand && cfg.lampStands
  | .binding => cfg.targetsStand && cfg.sevenFlash
  | .lane => cfg.membersStand
  | .gauge => cfg.drivesStand && cfg.sendersStand && cfg.warningsStand && cfg.curvesStand
  | .sender _ => cfg.curvesStand
  | .drive _ => cfg.curvesStand
  | .budget => cfg.lampStands
  | .flash => true
  | .fan => true
  | .link => true
  | .circuitState => true
  | .gaugeState => true
  | .demand => true

/-- Every cross-table check of R159, with the Demand Table as given. -/
def LiveConfig.lawful (cfg : LiveConfig) (occupied : CircuitId → Bool) : Bool :=
  cfg.demandsStand occupied && cfg.oneMotor && cfg.targetsStand && cfg.sevenFlash && cfg.membersStand &&
    cfg.drivesStand && cfg.sendersStand && cfg.warningsStand && cfg.curvesStand && cfg.lampStands

/-- Whether a circuit's ranked list holds a demand. -/
def State.occupied (s : State) (c : CircuitId) : Bool := decide (s.dt.lists[c] ≠ [])

end Sys2Proof.Machine
end

