-- ==== Sys2Proof/Machine/Image.lean ====
section
/-! DEFINITION. The non-volatile image (10_stored_configuration_and_start_up.md): its layout, its CRC, its judgement, its
pages, and what a cut leaves of it. -/

namespace Sys2Proof.Machine

open Sys2Proof

/-! ### The CRC (R168) -/

/-- One bit of the CRC, polynomial 0x1021. -/
def crcBit (c : Nat) : Nat := if 0x8000 ≤ c then Nat.xor (2 * c % 0x10000) 0x1021 else 2 * c

/-- One byte into the CRC, most significant bit first. -/
def crcByte (c : Nat) (b : Byte) : Nat :=
  crcBit (crcBit (crcBit (crcBit (crcBit (crcBit (crcBit (crcBit (Nat.xor c (256 * b.toNat)))))))))

/-- The CRC of bytes taken in order, initial value 0xFFFF. -/
def crcOf (bytes : List Byte) : Nat := bytes.foldl crcByte 0xFFFF

/-! ### Layout (R167) -/

/-- The image has 1024 bytes. -/
def imageSize : Nat := 1024

/-- The CRC covers the first 1022 of them. -/
def coveredSize : Nat := 1022

/-- A page has 32 bytes. -/
def pageSize : Nat := 32

/-- The format code. -/
def formatCode : Byte := 0x01

/-- The entries of one table in ascending order, each in its window layout. -/
def LiveConfig.tableBytes (cfg : LiveConfig) (t : Table) : List Byte :=
  (List.range t.entries).flatMap (cfg.entryBytes t)

/-- All writable tables in ascending order of table code: 680 bytes. -/
def LiveConfig.tablesBytes (cfg : LiveConfig) : List Byte := writableTables.flatMap cfg.tableBytes

/-- Bytes 0 to 1021 of the image of a configuration: format code, lock byte, tables, fill. -/
def coveredBytes (lock : Bool) (cfg : LiveConfig) : List Byte :=
  [formatCode, yesNo lock] ++ cfg.tablesBytes ++ List.replicate (coveredSize - 2 - cfg.tablesBytes.length) 0x00

/-- The 1024 bytes of the image of a configuration. -/
def imageBytes (lock : Bool) (cfg : LiveConfig) : List Byte :=
  coveredBytes lock cfg ++ le16 (crcOf (coveredBytes lock cfg))

/-- The image of a configuration, as a save forms it in the program buffer (R170). -/
def imageOf (lock : Bool) (cfg : LiveConfig) : Memory := Memory.ofBytes 0 (imageBytes lock cfg)

/-! ### Judgement (R168) -/

/-- One table taken from the front of a run of bytes, and the bytes after it. -/
def LiveConfig.takeTable (cfg : LiveConfig) (t : Table) (bytes : List Byte) : Option (LiveConfig × List Byte) :=
  (cfg.writeEntries t 0 (cutEntries t.entryBytes t.entries bytes)).map
    (fun cfg => (cfg, bytes.drop (t.entryBytes * t.entries)))

/-- Several tables taken in order. -/
def LiveConfig.takeTables (cfg : LiveConfig) : List Table → List Byte → Option LiveConfig
  | [], _ => some cfg
  | t :: rest, bytes => (cfg.takeTable t bytes).bind (fun q => q.1.takeTables rest q.2)

/-- The configuration an image's table bytes hold; none where an entry fails a check of its own table. Every entry is
written, so nothing of the configuration it starts from is left. -/
def configOf (bytes : List Byte) : Option LiveConfig := factoryConfig.takeTables writableTables bytes

/-- The stored CRC of an image. -/
def storedCrc (image : Memory) : Nat := nat16 (image.read 1022) (image.read 1023)

/-- A blank image: every byte 0xFF. -/
def blank (image : Memory) : Bool := (image.bytes 0 imageSize).all (fun b => decide (b = Memory.blankByte))

/-- R168: the configuration and the lock flag of a good image; none for a bad one. -/
def judge (image : Memory) : Option (LiveConfig × Bool) :=
  if blank image ∨ image.read 0 ≠ formatCode ∨ crcOf (image.bytes 0 coveredSize) ≠ storedCrc image then none
  else
    match configOf (image.bytes 2 (coveredSize - 2)), yesNoOf (image.read 1) with
    | some cfg, some lock => if cfg.lawful (fun _ => false) then some (cfg, lock) else none
    | _, _ => none

/-! ### Pages (R167, R170, R172) -/

/-- One page erased and then programmed from a buffer, but for the cells that do not take their value. -/
def programPage (image buffer : Memory) (page : Nat) (defects : PageDefects) : Memory :=
  (image.copyRange buffer (pageSize * page) (pageSize * page + pageSize)).writeCells (pageSize * page) pageSize defects

/-- One page erased, but for the cells that do not erase. -/
def erasePage (image : Memory) (page : Nat) (defects : PageDefects) : Memory :=
  (image.copyRange [] (pageSize * page) (pageSize * page + pageSize)).writeCells (pageSize * page) pageSize defects

/-- The free bytes of the page in hand at the n-th cut (log 7). -/
def cutPage (n : Nat) : List (Nat × Byte) := (List.range pageSize).map (fun i => (i, Config.cutByte n i))

/-- The image has 32 pages (R167). -/
def pageCount : Nat := 32

/-- The page a save has in hand; none outside a save and in its verify. -/
def StoreState.savingPage : StoreState → Option Nat
  | .idle => none
  | .saving page => if page < pageCount then some page else none
  | .erasing _ => none

/-- Whether a save is in its verify. -/
def StoreState.verifying : StoreState → Bool
  | .idle => false
  | .saving page => decide (pageCount ≤ page)
  | .erasing _ => false

/-- The page an erase has in hand. -/
def StoreState.erasingPage : StoreState → Option Nat
  | .idle => none
  | .saving _ => none
  | .erasing page => if page < pageCount then some page else none

/-- The page in hand, if any: none in the verify of a save (R170). -/
def StoreState.pageInHand (st : StoreState) : Option Nat := st.savingPage.or st.erasingPage

/-- A save or an erase cut short (R170, R172): the page in hand is left with free bytes, the others stand. -/
def State.cutShort (s : State) : State :=
  match s.cs.state.pageInHand with
  | none => { s with cs := { s.cs with state := .idle, buffer := none } }
  | some page =>
    { s with
      cs := { s.cs with
        state := .idle
        buffer := none
        image := s.cs.image.writeCells (pageSize * page) pageSize (cutPage s.cuts) }
      cuts := s.cuts + 1 }

/-! ### The steps of a save and of an erase (R170 to R172) -/

/-- A save accepted: the image formed in the program buffer, page 0 in hand. -/
def State.beginSave (lock : Bool) (s : State) : State :=
  { s with cs := { s.cs with state := .saving 0, buffer := some (imageOf lock s.cfg) } }

/-- One page of a save done, and the next in hand; after page 31 the verify. -/
def State.pageSaved (page : Nat) (defects : PageDefects) (s : State) : State :=
  { s with
    cs := { s.cs with
      image := programPage s.cs.image (s.cs.buffer.getD []) page defects
      state := .saving (page + 1) } }

/-- R170: whether the verify finds the image as the buffer has it, CRC and bytes. -/
def Store.verified (cs : Store) : Bool :=
  let buffer := cs.buffer.getD []
  decide (crcOf (cs.image.bytes 0 coveredSize) = storedCrc buffer) &&
    decide (cs.image.bytes 0 imageSize = buffer.bytes 0 imageSize)

/-- The end of the verify (R170, R171): SAVE-DONE or SAVE-FAILED, the buffer emptied, the store IDLE, and the lock flag
set by a LOCK-STORE that succeeded. -/
def State.endVerify (s : State) : State :=
  let done := s.cs.verified
  let locks := decide ((s.cs.buffer.getD []).read 1 = 0x01)
  ({ s with cs := { s.cs with state := .idle, buffer := none, lock := s.cs.lock || (done && locks) } } : State).raise
    (if done then .saveDone else .saveFailed)

/-- One page of an erase done. -/
def State.pageErased (page : Nat) (defects : PageDefects) (s : State) : State :=
  { s with cs := { s.cs with image := erasePage s.cs.image page defects, state := .erasing (page + 1) } }

end Sys2Proof.Machine
end

