-- ==== Sys2Proof/Machine/Resets.lean ====
section
/-! DEFINITION. The power-on reset (R174), the software reset (R175) and what the part is while it has no power or RESET
is asserted. -/

namespace Sys2Proof.Machine

open Sys2Proof

/-- The working state of every block that both resets set alike (R23, R45, R86, R105, R145): all but the inputs, the
Link Port and the store. -/
def State.blocksReset (s : State) : State :=
  { s with
    dt := DemandTable.reset
    cc := Vector.replicate 16 Circuit.reset
    fu := Flasher.reset s.fu.wireLow
    ge := Vector.ofFn (fun g : Fin 3 => Channel.reset (s.cfg.gauges[g]).enable s.now)
    sbu := Supply.reset s.now
    evaluate := false }

/-- R64: the debounced levels stand, every counter is 0, no binding is evaluated or holds anything, the ignition state
is OFF. -/
def Inputs.softReset (now : Nat) (u : Inputs) : Inputs :=
  { Inputs.reset now with inputs := Vector.ofFn (fun i : Fin 12 => { u.inputs[i] with counter := 0 }) }

/-- R165: window absent, no condition pending. The response and the last result are set by the cause of the reset. -/
def LinkPort.softReset (lp : LinkPort) : LinkPort := { lp with window := none, pending := 0 }

/-- The software reset up to the end of every block's reset: configuration, lock flag, debounced levels and straps
kept; the store IDLE and its buffer empty (R175). -/
def State.softReset (s : State) : State :=
  let t := s.blocksReset
  { t with
    ibu := s.ibu.softReset s.now
    lp := s.lp.softReset
    cs := { s.cs with state := .idle, buffer := none } }

/-- The software reset whole: the ignition state is then taken from the kept level and announced if it is ON, and every
enabled binding whose inputs are known has its first evaluation (R64, R175). The budget evaluation that this brings is
recorded later than the start of the 1 s timer, as 11_worked_sequences.md has it (log 32). -/
def State.restart (s : State) : State :=
  (s.softReset.formIgnition (fun _ => true)).takeEvaluation (s.now + 1)

/-- A power-on reset with the configuration, the lock flag and the pending set that the image's judgement gives. -/
def State.powerOnWith (straps : BitVec 2) (cfg : LiveConfig) (lock : Bool) (pending : StatusSet) (s : State) : State :=
  let t := ({ s with cfg := cfg } : State).blocksReset
  { t with
    powered := true
    ibu := Inputs.reset s.now
    lp := LinkPort.reset straps pending
    cs := { s.cs with state := .idle, buffer := none, lock := lock } }

/-- A power-on reset (R174): a save or an erase in flight is cut short, the straps are read, the image judged and
loaded, or the factory defaults taken with CONFIG-DEFAULTED raised. -/
def State.powerOn (straps : BitVec 2) (s : State) : State :=
  let s := s.cutShort
  match judge s.cs.image with
  | some (cfg, lock) => s.powerOnWith straps cfg lock 0
  | none => s.powerOnWith straps factoryConfig false Status.configDefaulted.mark

/-- Power lost or RESET asserted: a save or an erase in flight is cut short, every output is off, the open-drain lines
are released and TICK is low (R174). -/
def State.powerLoss (s : State) : State :=
  let s := s.cutShort
  { s.powerOnWith s.lp.straps s.cfg s.cs.lock 0 with powered := false }

end Sys2Proof.Machine
end

