-- ==== Sys2Proof/Machine/Ops.lean ====
section
/-! DEFINITION. The shared operations behind every command: one frame of the host executed and answered (R149 to R152),
one event of the car or of a timer taken, and what is seen of the part from outside. -/

namespace Sys2Proof.Machine

open Sys2Proof

/-! ### Answers (R150, R151) -/

/-- What a command answers: its result, its data, and the handle of the last result. -/
structure Reply where
  result : Result
  data : List Byte
  handle : Nat
  deriving DecidableEq, Repr

/-- Executed, with no data. -/
def Reply.ok : Reply := ⟨.ok, [], 0⟩

/-- Executed, with data. -/
def Reply.read (data : List Byte) : Reply := ⟨.ok, data, 0⟩

/-- Refused: no data (R150). -/
def Reply.refuse (r : Result) : Reply := ⟨r, [], 0⟩

/-- A response: result, data, check byte (R150). -/
def responseBytes (r : Result) (data : List Byte) : List Byte :=
  let body := byteOf r.code :: data
  body ++ [checkByte body]

/-- The response prepared and the last result recorded (R150, R151). -/
def State.answer (code : Byte) (reply : Reply) (s : State) : State :=
  { s with
    lp := { s.lp with
      response := some (responseBytes reply.result reply.data)
      last := ⟨code, reply.result, reply.handle⟩ } }

/-- A command refused: the state as it stands, and the answer. -/
def State.refused (s : State) (r : Result) : State × Reply := (s, Reply.refuse r)

/-! ### Frames executed (R152) -/

/-- A wake taken whole, with its evaluation (R136); a part that is awake is not affected. -/
def State.wakeUp (s : State) : State := if s.sbu.power = .asleep then s.wake.settle else s

/-- Whether the part is ASLEEP (R134). -/
def State.isAsleep (s : State) : Bool := decide (s.sbu.power = .asleep)

/-- One frame of the host executed: a sleeping part is first woken at the address match (R136), the command's effects
are completed (R152), the sleep timer returns to 0 (R135), and the answer is recorded. A part without power takes no
frame (R174). -/
def State.frame (code : Byte) (body : State → State × Reply) (s : State) : State :=
  if s.powered then
    let out := body s.wakeUp
    (out.1.restartSleep.settle).answer code out.2
  else s

/-- One event of the car, of a timer or of the store, taken when its moment has come (log 2) and the part has
power. -/
def State.event (due : State → Bool) (f : State → State) (s : State) : State :=
  if s.powered && due s then (f s).settle else s

/-! ### The bus (R147, R148) -/

/-- R147: the part's own address. -/
def State.address (s : State) : Nat := s.cfg.link.base + s.lp.straps.toNat

/-- Whether an address byte is the part's own. -/
def State.isOwn (s : State) (address : BitVec 7) : Bool := decide (address.toNat = s.address)

/-- Whether a write is an enabled general call (R148). -/
def State.isGeneral (s : State) (address : BitVec 7) : Bool := s.cfg.link.generalCall && decide (address = 0)

/-- R147, R148: the address bytes the part acknowledges; the general call in the write direction alone. -/
def State.acknowledges (s : State) (address : BitVec 7) (read : Bool) : Bool :=
  s.powered && (s.isOwn address || (!read && s.isGeneral address))

/-- R149: the longest frame. -/
def longestFrame : Nat := 260

/-- R149: whether the part acknowledges the k-th byte it is sent after an address byte of a write, the command code
being the first: every byte up to the 260th, and none from the 261st on. -/
def State.acknowledgesByte (s : State) (address : BitVec 7) (k : Nat) : Bool :=
  s.acknowledges address false && decide (k ≤ longestFrame)

/-- R150: byte k of a read frame: the prepared response from its first byte, then 0xFF (log 24). -/
def State.readByte (s : State) (k : Nat) : Byte := (s.lp.response.getD []).getD k 0xFF

/-! ### The outputs -/

/-- R29: the duty of an output in permille; every output is off without power (R174). -/
def State.duty (s : State) (c : CircuitId) : Nat := if s.powered then (s.cc[c]).applied else 0

/-- The level of TICK, low without power (R84, R174). -/
def State.tickHigh (s : State) : Bool := s.powered && s.fu.tick

/-- Whether the part pulls FSYNC low, released without power (R81, R174). -/
def State.pullsSync (s : State) : Bool := s.powered && s.fu.pull

/-- R90: the pull-up in ohms that a gauge channel applies, while it is enabled and the part is not ASLEEP; none is
applied in DISABLED (R97), nor without power (log 10). -/
def State.appliedPullUp (s : State) (g : ChannelId) : Option Nat :=
  if s.powered && !s.isAsleep && decide ((s.ge[g]).state ≠ .disabled) then some (pullUp s.cfg.gauges[g]) else none

/-- R90: the pull-up in ohms that stands on a sender input: that of the channel that reads it. No two enabled channels
read one (R88). -/
def State.senderPullUp (s : State) (input : ChannelId) : Option Nat :=
  allChannels.findSome? (fun g => if (s.cfg.gauges[g]).sender = input then s.appliedPullUp g else none)

end Sys2Proof.Machine
end

