-- ==== Sys2Proof/Machine/CircuitEvents.lean ====
section
/-! DEFINITION. The circuit events: INRUSH_EXPIRY (R31), CURRENT_MEASUREMENT (R37, R38), RETRY_EXPIRY (R34, R126),
QUIET_TIME_EXPIRY (R36), RAMP_STEP (R121). -/

namespace Sys2Proof.Machine

open Sys2Proof

/-- A circuit's record replaced by what an event of its own makes of it: LAMP-OUT raised when its flag is set (R41),
CIRCUIT-LOCKED when it enters LOCKED (R33, R125). -/
def State.circuitEvent (c : CircuitId) (f : Circuit → Circuit) (s : State) : State :=
  let old := s.cc[c]
  let r := f old
  { s with
    cc := s.cc.set c r
    lp := (s.lp.raiseIf .lampOut (r.lampOut && !old.lampOut)).raiseIf .circuitLocked
      (decide (r.state = .locked) && decide (old.state ≠ .locked)) }

/-- INRUSH_EXPIRY on the record: STARTING to ON, the applied level unchanged (R31). -/
def Circuit.inrushEnd (r : Circuit) : Circuit := { r with state := .on, inrushDue := none }

/-- Whether a circuit's inrush time has run out. -/
def State.inrushReady (c : CircuitId) (s : State) : Bool :=
  decide ((s.cc[c]).state = .starting) && timerOut (s.cc[c]).inrushDue s.now

/-- INRUSH_EXPIRY. -/
def execInrushExpiry (c : CircuitId) (s : State) : Host.Outcome State Fault Refusal :=
  .next (s.event (State.inrushReady c) (fun s => s.circuitEvent c Circuit.inrushEnd))

/-- Whether a circuit's next measurement has come. A circuit at applied level 0 is not measured (R37). -/
def State.measureReady (c : CircuitId) (s : State) : Bool :=
  decide (0 < (s.cc[c]).applied) && timerOut (s.cc[c]).measureDue s.now

/-- CURRENT_MEASUREMENT, at its moment on the circuit's 20 ms schedule. -/
def execCurrentMeasurement (c : CircuitId) (mean : Nat) (s : State) : Host.Outcome State Fault Refusal :=
  .next (s.event (State.measureReady c)
    (fun s => s.circuitEvent c (Circuit.measure s.cfg.circuits[c] s.cfg.fan s.now mean)))

/-- Whether a circuit's retry delay has run out. -/
def State.retryReady (c : CircuitId) (s : State) : Bool :=
  decide ((s.cc[c]).state = .retryWait) && timerOut (s.cc[c]).retryDue s.now

/-- RETRY_EXPIRY. -/
def execRetryExpiry (c : CircuitId) (s : State) : Host.Outcome State Fault Refusal :=
  .next (s.event (State.retryReady c)
    (fun s => s.circuitEvent c (Circuit.retry s.cfg.circuits[c] s.cfg.fan s.now)))

/-- Whether a circuit's quiet time has run out. -/
def State.quietReady (c : CircuitId) (s : State) : Bool := timerOut (s.cc[c]).quietDue s.now

/-- QUIET_TIME_EXPIRY. -/
def execQuietTimeExpiry (c : CircuitId) (s : State) : Host.Outcome State Fault Refusal :=
  .next (s.event (State.quietReady c) (fun s => s.circuitEvent c Circuit.quiet))

/-- Whether the fan's next ramp step has come. -/
def State.rampReady (c : CircuitId) (s : State) : Bool :=
  decide ((s.cc[c]).state = .ramp) && timerOut (s.cc[c]).rampDue s.now

/-- RAMP_STEP. -/
def execRampStep (c : CircuitId) (s : State) : Host.Outcome State Fault Refusal :=
  .next (s.event (State.rampReady c)
    (fun s => s.circuitEvent c (Circuit.rampUp s.cfg.fan s.now)))

end Sys2Proof.Machine
end

