-- ==== Sys2Proof/Machine/DemandEvents.lean ====
section
/-! DEFINITION. HOLD_EXPIRY (R18). -/

namespace Sys2Proof.Machine

open Sys2Proof

/-- A demand whose hold has run out (R17). -/
def Demand.expired (now : Nat) (d : Demand) : Bool := timerOut d.expiry now

/-- Every demand whose hold has run out is retired, each affected circuit is resolved once after all of them, the
internal sources are told, and a host demand's end raises DEMAND-EXPIRED (R16, R18). -/
def State.expireHolds (s : State) : State :=
  (s.retireAndTell (Demand.expired s.now)).raiseIf .demandExpired
    (decide (s.dt.slotsWhere (fun d => d.expired s.now && decide (d.source = .host)) ≠ []))

/-- Whether a change of the table raised the level of some circuit. -/
def State.raisedLevel (before after : State) : Bool :=
  allCircuits.any (fun c => decide ((before.dt.res[c]).resolved < (after.dt.res[c]).resolved))

/-- HOLD_EXPIRY on the state: in ASLEEP an expiry that raises a level also wakes the part, which takes the wake first
(R141; log 12). -/
def State.takeExpiry (s : State) : State :=
  if s.sbu.power = .asleep ∧ s.raisedLevel s.expireHolds then s.wakeUp.expireHolds else s.expireHolds

/-- Whether some hold has run out. -/
def State.holdDue (s : State) : Bool := decide (s.dt.slotsWhere (Demand.expired s.now) ≠ [])

/-- HOLD_EXPIRY. -/
def execHoldExpiry (s : State) : Host.Outcome State Fault Refusal :=
  .next (s.event State.holdDue State.takeExpiry)

end Sys2Proof.Machine
end

