-- ==== Sys2Proof/Machine/FlasherEvents.lean ====
section
/-! DEFINITION. The flasher events: ON_PHASE_EXPIRY (R76), OFF_PHASE_EXPIRY (R77), SYNC_LINE_FALL (R82), SYNC_LINE_RISE,
WAIT_SYNC_TIMEOUT (R83), TICK_PULSE_END (R84). -/

namespace Sys2Proof.Machine

open Sys2Proof

/-- Whether the ON phase has run out. -/
def State.onReady (s : State) : Bool := decide (s.fu.clock = .on) && timerOut s.fu.phaseDue s.now

/-- ON_PHASE_EXPIRY. -/
def execOnPhaseExpiry (s : State) : Host.Outcome State Fault Refusal := .next (s.event State.onReady State.endOn)

/-- Whether the OFF phase has run out. -/
def State.offReady (s : State) : Bool := decide (s.fu.clock = .off) && timerOut s.fu.phaseDue s.now

/-- OFF_PHASE_EXPIRY. -/
def execOffPhaseExpiry (s : State) : Host.Outcome State Fault Refusal := .next (s.event State.offReady State.endOff)

/-- The rest of the wire pulls FSYNC low, or releases it; the wire is outside the part and moves in every state
(log 6). A part without power reads nothing (log 10). -/
def State.wire (low : Bool) (s : State) : State :=
  { s with fu := if s.powered then s.fu.wire low else { s.fu with wireLow := low } }

/-- A SYNCED clock in ON, which a fall of the line ends (R82). -/
def State.endsAtFall (s : State) : Bool := s.fu.synced && decide (s.fu.clock = .on)

/-- SYNC_LINE_FALL: a SYNCED clock in ON ends its phase (R82); in any other state a fall has no effect. -/
def execSyncLineFall (s : State) : Host.Outcome State Fault Refusal :=
  .next (if s.fu.wireLow then s
    else (s.wire true).event State.endsAtFall State.endOn)

/-- A SYNCED clock in WAIT-SYNC, which a rise of the line ends (R83). -/
def State.startsAtRise (s : State) : Bool := s.fu.synced && decide (s.fu.clock = .waitSync)

/-- SYNC_LINE_RISE: a SYNCED clock in WAIT-SYNC enters ON (R83); in any other state a rise has no effect. -/
def execSyncLineRise (s : State) : Host.Outcome State Fault Refusal :=
  .next (if s.fu.wireLow then (s.wire false).event State.startsAtRise State.enterOn else s)

/-- Whether the clock has stood in WAIT-SYNC for its 2000 ms. -/
def State.waitReady (s : State) : Bool := decide (s.fu.clock = .waitSync) && timerOut s.fu.waitDue s.now

/-- WAIT_SYNC_TIMEOUT. -/
def execWaitSyncTimeout (s : State) : Host.Outcome State Fault Refusal :=
  .next (s.event State.waitReady State.abandonSync)

/-- The end of a tick pulse (R84). -/
def State.endPulse (s : State) : State := { s with fu := { s.fu with tick := false, tickDue := none } }

/-- Whether a tick pulse has run its 20 ms. -/
def State.pulseReady (s : State) : Bool := timerOut s.fu.tickDue s.now

/-- TICK_PULSE_END. -/
def execTickPulseEnd (s : State) : Host.Outcome State Fault Refusal :=
  .next (s.event State.pulseReady State.endPulse)

end Sys2Proof.Machine
end

