-- ==== Sys2Proof/Machine/FrameCodec.lean ====
section
/-! DEFINITION. The command codes and parameter layouts of R166, in both directions: the command a frame's code and
parameters spell, and the frame of a command. -/

namespace Sys2Proof.Machine

open Sys2Proof

/-! ### Codes -/

/-- The command code of a link command; none for the events. -/
def commandCode : Instr → Option Byte
  | .place _ _ _ _ _ _ => some 0x10
  | .amend _ _ _ _ _ => some 0x11
  | .retire _ => some 0x12
  | .retireHostAll => some 0x13
  | .readDemand _ => some 0x14
  | .listCircuit _ => some 0x15
  | .readCircuit _ => some 0x20
  | .clearFault _ => some 0x21
  | .flash _ _ => some 0x30
  | .flashStop => some 0x31
  | .lampTest _ => some 0x32
  | .gaugeDirect _ _ => some 0x40
  | .gaugeRelease _ => some 0x41
  | .readGauge _ => some 0x42
  | .readSupply => some 0x50
  | .setWindow _ _ _ => some 0x60
  | .writeStream _ => some 0x61
  | .readStream => some 0x62
  | .readStatus => some 0x70
  | .ackStatus _ => some 0x71
  | .save => some 0x80
  | .lockStore => some 0x81
  | .eraseStore => some 0x82
  | .reset => some 0x90
  | .readResult => some 0x91
  | .powerOnReset _ | .writeFrame _ _ | .addressMatchWake _ _ | .senseSample _ | .inputWake _ | .holdExpiry
  | .inrushExpiry _ | .currentMeasurement _ _ | .retryExpiry _ | .quietTimeExpiry _ | .rampStep _ | .onPhaseExpiry
  | .offPhaseExpiry | .syncLineFall | .syncLineRise | .waitSyncTimeout | .tickPulseEnd | .senderConversion _ _
  | .gaugeTick _ | .supplySample _ _ | .evaluationTimerExpiry | .sleepTimerExpiry | .savePageProgrammed _
  | .saveVerifyEnd | .erasePageErased _ | .powerLossOrResetAsserted => none

/-- The codes that name a command. -/
def commandCodes : List Byte :=
  [0x10, 0x11, 0x12, 0x13, 0x14, 0x15, 0x20, 0x21, 0x30, 0x31, 0x32, 0x40, 0x41, 0x42, 0x50, 0x60, 0x61, 0x62, 0x70,
    0x71, 0x80, 0x81, 0x82, 0x90, 0x91]

/-- Whether a code names a command. -/
def namesCommand (code : Byte) : Bool := commandCodes.contains code

/-! ### Parameters to commands -/

/-- A two-byte parameter. -/
def half (lo hi : Byte) : Half := BitVec.ofNat 16 (nat16 lo hi)

/-- A command with no parameter. -/
def noParameter (i : Instr) : List Byte → Option Instr
  | [] => some i
  | _ :: _ => none

/-- A command with one byte. -/
def oneByte (f : Byte → Instr) : List Byte → Option Instr
  | [a] => some (f a)
  | _ => none

/-- A command with one two-byte value. -/
def oneHalf (f : Half → Instr) : List Byte → Option Instr
  | [a, b] => some (f (half a b))
  | _ => none

/-- PLACE's parameters. -/
def placeOf : List Byte → Option Instr
  | [c, i, l0, l1, p, h0, h1, g] => some (.place c i (half l0 l1) p (half h0 h1) g)
  | _ => none

/-- AMEND's parameters. -/
def amendOf : List Byte → Option Instr
  | [n0, n1, sel, l0, l1, p, h0, h1] => some (.amend (half n0 n1) sel (half l0 l1) p (half h0 h1))
  | _ => none

/-- FLASH's parameters. -/
def flashOf : List Byte → Option Instr
  | [l, n] => some (.flash l n)
  | _ => none

/-- GAUGE-DIRECT's parameters. -/
def gaugeDirectOf : List Byte → Option Instr
  | [c, r0, r1] => some (.gaugeDirect c (half r0 r1))
  | _ => none

/-- SET-WINDOW's parameters. -/
def setWindowOf : List Byte → Option Instr
  | [t, a, b] => some (.setWindow t a b)
  | _ => none

/-- WRITE-STREAM takes from 1 to 258 bytes. -/
def streamLengthOk (data : List Byte) : Bool := decide (1 ≤ data.length) && decide (data.length ≤ 258)

/-- WRITE-STREAM's parameters. -/
def writeStreamOf (data : List Byte) : Option Instr := if streamLengthOk data then some (.writeStream data) else none

/-- The command that a code and its parameter bytes spell; none where the code names no command or the number of
parameter bytes differs from the command's. -/
def commandOf (code : Byte) (params : List Byte) : Option Instr :=
  match code.toNat with
  | 0x10 => placeOf params
  | 0x11 => amendOf params
  | 0x12 => oneHalf .retire params
  | 0x13 => noParameter .retireHostAll params
  | 0x14 => oneHalf .readDemand params
  | 0x15 => oneByte .listCircuit params
  | 0x20 => oneByte .readCircuit params
  | 0x21 => oneByte .clearFault params
  | 0x30 => flashOf params
  | 0x31 => noParameter .flashStop params
  | 0x32 => oneByte .lampTest params
  | 0x40 => gaugeDirectOf params
  | 0x41 => oneByte .gaugeRelease params
  | 0x42 => oneByte .readGauge params
  | 0x50 => noParameter .readSupply params
  | 0x60 => setWindowOf params
  | 0x61 => writeStreamOf params
  | 0x62 => noParameter .readStream params
  | 0x70 => noParameter .readStatus params
  | 0x71 => oneHalf .ackStatus params
  | 0x80 => noParameter .save params
  | 0x81 => noParameter .lockStore params
  | 0x82 => noParameter .eraseStore params
  | 0x90 => noParameter .reset params
  | 0x91 => noParameter .readResult params
  | _ => none

/-! ### Commands to frames -/

/-- The two bytes of a two-byte parameter. -/
def halfBytes (h : Half) : List Byte := le16 h.toNat

/-- The parameter bytes of a link command. -/
def commandParams : Instr → List Byte
  | .place c i l p h g => [c, i] ++ halfBytes l ++ [p] ++ halfBytes h ++ [g]
  | .amend n sel l p h => halfBytes n ++ [sel] ++ halfBytes l ++ [p] ++ halfBytes h
  | .retire n => halfBytes n
  | .readDemand n => halfBytes n
  | .listCircuit c => [c]
  | .readCircuit c => [c]
  | .clearFault c => [c]
  | .flash l n => [l, n]
  | .lampTest d => [d]
  | .gaugeDirect c r => [c] ++ halfBytes r
  | .gaugeRelease c => [c]
  | .readGauge c => [c]
  | .setWindow t a b => [t, a, b]
  | .writeStream data => data
  | .ackStatus n => halfBytes n
  | .retireHostAll | .flashStop | .readSupply | .readStream | .readStatus | .save | .lockStore | .eraseStore
  | .reset | .readResult | .powerOnReset _ | .writeFrame _ _ | .addressMatchWake _ _ | .senseSample _ | .inputWake _
  | .holdExpiry | .inrushExpiry _ | .currentMeasurement _ _ | .retryExpiry _ | .quietTimeExpiry _ | .rampStep _
  | .onPhaseExpiry | .offPhaseExpiry | .syncLineFall | .syncLineRise | .waitSyncTimeout | .tickPulseEnd
  | .senderConversion _ _ | .gaugeTick _ | .supplySample _ _ | .evaluationTimerExpiry | .sleepTimerExpiry
  | .savePageProgrammed _ | .saveVerifyEnd | .erasePageErased _ | .powerLossOrResetAsserted => []

/-- A write frame: code, parameters, check byte (R166, "Frames"). -/
def frameBytes (code : Byte) (params : List Byte) : List Byte :=
  (code :: params) ++ [checkByte (code :: params)]

/-- The write frame of a link command; none for the events. -/
def frameOf (i : Instr) : Option (List Byte) :=
  (commandCode i).map (fun code => frameBytes code (commandParams i))

end Sys2Proof.Machine
end

