-- ==== Sys2Proof/Machine/HostCircuits.lean ====
section
/-! DEFINITION. The circuit and signal commands: READ-CIRCUIT, CLEAR-FAULT (02_circuits_and_the_output_stage.md), FLASH,
FLASH-STOP (04_direction_signals.md), LAMP-TEST (R153). -/

namespace Sys2Proof.Machine

open Sys2Proof

/-! ### READ-CIRCUIT (R44), CLEAR-FAULT (R43) -/

/-- READ-CIRCUIT (R44). -/
def State.readCircuitBody (circuit : Byte) (s : State) : State × Reply :=
  match circuitOf circuit with
  | none => s.refused .badParameter
  | some c => (s, Reply.read (s.circuitBytes c))

/-- The fault of one circuit cleared by its state (R43). -/
def State.clearFaultAt (c : CircuitId) (s : State) : State :=
  { s with cc := s.cc.set c ((s.cc[c]).clearFault s.cfg.circuits[c] s.cfg.fan s.now) }

/-- CLEAR-FAULT (R43). -/
def State.clearFaultBody (circuit : Byte) (s : State) : State × Reply :=
  match circuitOf circuit with
  | none => s.refused .badParameter
  | some c =>
    if (s.cfg.circuits[c]).kind = .none then s.refused .wrongKind else (s.clearFaultAt c, Reply.ok)

/-! ### FLASH (R67), FLASH-STOP (R68) -/

/-- FLASH (R67): a count of 0 gives a request with no count. -/
def State.flashBody (lanes count : Byte) (s : State) : State × Reply :=
  match laneSetOf lanes with
  | none => s.refused .badParameter
  | some l =>
    if 15 < count.toNat then s.refused .badParameter
    else (s.placeHostRequest ⟨l, if count = 0 then none else some count.toNat⟩, Reply.ok)

/-- FLASH-STOP (R68). -/
def State.flashStopBody (s : State) : State × Reply := (s.retireHostRequest, Reply.ok)

/-! ### LAMP-TEST (R153) -/

/-- A lamp-test demand (R3). -/
def testPlacement (duration : Nat) (c : CircuitId) : Placement :=
  ⟨c, .test, .on, some 1000, 14, some duration, false⟩

/-- The lamp-test participants, ascending. -/
def LiveConfig.participants (cfg : LiveConfig) : List CircuitId :=
  allCircuits.filter (fun c => (cfg.circuits[c]).lampTest)

/-- LAMP-TEST (R153). -/
def State.lampTestBody (duration : Byte) (s : State) : State × Reply :=
  if duration.toNat = 0 ∨ 50 < duration.toNat then s.refused .badParameter
  else (s.cfg.participants.foldl (fun t c => t.placeInternal (testPlacement duration.toNat c)) s, Reply.ok)

/-! ### Meanings -/

/-- READ-CIRCUIT. -/
def execReadCircuit (circuit : Byte) (s : State) : Host.Outcome State Fault Refusal :=
  .next (s.frame 0x20 (State.readCircuitBody circuit))

/-- CLEAR-FAULT. -/
def execClearFault (circuit : Byte) (s : State) : Host.Outcome State Fault Refusal :=
  .next (s.frame 0x21 (State.clearFaultBody circuit))

/-- FLASH. -/
def execFlash (lanes count : Byte) (s : State) : Host.Outcome State Fault Refusal :=
  .next (s.frame 0x30 (State.flashBody lanes count))

/-- FLASH-STOP. -/
def execFlashStop (s : State) : Host.Outcome State Fault Refusal :=
  .next (s.frame 0x31 State.flashStopBody)

/-- LAMP-TEST. -/
def execLampTest (duration : Byte) (s : State) : Host.Outcome State Fault Refusal :=
  .next (s.frame 0x32 (State.lampTestBody duration))

end Sys2Proof.Machine
end

