-- ==== Sys2Proof/Machine/HostDemands.lean ====
section
/-! DEFINITION. The demand commands: PLACE, AMEND, RETIRE, RETIRE-HOST-ALL, READ-DEMAND, LIST-CIRCUIT
(01_the_demand_table.md). -/

namespace Sys2Proof.Machine

open Sys2Proof

/-! ### PLACE (R8) -/

/-- The host's share of the slots (R6). -/
def hostQuota : Nat := 20

/-- A level as recorded: above 1000 as 1000. -/
def takeLevel (level : Half) : Nat := min 1000 level.toNat

/-- A hold as recorded: 0 for none. -/
def takeHold (hold : Half) : Option Nat := if hold = 0 then none else some hold.toNat

/-- The intents open to the host (R3). -/
def hostIntent (b : Byte) : Option Intent :=
  match b.toNat with
  | 0 => some .on
  | 1 => some .off
  | _ => none

/-- The host demand that PLACE asks for; intent OFF carries no level. -/
def hostPlacement (c : CircuitId) (intent : Intent) (level : Half) (priority : Byte) (hold : Half) (gated : Byte) :
    Placement :=
  { circuit := c
    source := .host
    intent := intent
    level := if intent = .on then some (takeLevel level) else none
    priority := priority.toNat
    hold := takeHold hold
    gated := decide (gated ≠ 0) }

/-- A placement that passed its parameter checks: the kind, the ignition, the quota, then the demand (R8). -/
def State.placeHost (p : Placement) (s : State) : State × Reply :=
  if ¬ (s.cfg.circuits[p.circuit]).kind.takesDemands then s.refused .wrongKind
  else if p.gated ∧ ¬ s.ibu.ignition then s.refused .wrongState
  else if hostQuota ≤ s.dt.hostCount then s.refused .quotaFull
  else
    match s.dt.freeSlot with
    | none => s.refused .quotaFull
    | some slot =>
      let handle := handleOf slot (nextTag (s.dt.slots[slot]).tag)
      (s.createAt slot p, ⟨.ok, le16 handle, handle⟩)

/-- PLACE (R8): circuit, intent and priority are checked first. -/
def State.placeBody (circuit intent : Byte) (level : Half) (priority : Byte) (hold : Half) (gated : Byte) (s : State) :
    State × Reply :=
  match circuitOf circuit, hostIntent intent with
  | some c, some i =>
    if priority.toNat ≤ 15 then s.placeHost (hostPlacement c i level priority hold gated)
    else s.refused .badParameter
  | some _, none => s.refused .badParameter
  | none, _ => s.refused .badParameter

/-! ### AMEND (R13) -/

/-- The changes that AMEND's selection byte asks for: level, priority, hold. -/
def amended (now : Nat) (selection : Byte) (level : Half) (priority : Byte) (hold : Half) (d : Demand) : Demand :=
  { d with
    level := if flagBit selection 0 then some (takeLevel level) else d.level
    priority := if flagBit selection 1 then priority.toNat else d.priority
    expiry := if flagBit selection 2 then holdExpiryAt now (takeHold hold) else d.expiry }

/-- The table with a demand rewritten in its slot; a new priority, also an equal one, moves it to the front of its
group. -/
def DemandTable.rewrite (dt : DemandTable) (slot : SlotId) (d : Demand) (moves : Bool) : DemandTable :=
  let t := { dt with slots := dt.slots.set slot ⟨(dt.slots[slot]).tag, some d⟩ }
  if moves then t.reposition d.circuit d.priority slot else t

/-- A passed AMEND: the changes made together, the circuit resolved anew. -/
def State.amendAt (slot : SlotId) (d : Demand) (moves : Bool) (s : State) : State :=
  ({ s with dt := s.dt.rewrite slot d moves } : State).resolve true false d.circuit

/-- Whether AMEND's parameters are refused by themselves: an empty selection, or a new priority above 15. -/
def amendRefused (selection priority : Byte) : Bool :=
  (!flagBit selection 0 && !flagBit selection 1 && !flagBit selection 2) ||
    (flagBit selection 1 && decide (15 < priority.toNat))

/-- AMEND (R13). -/
def State.amendBody (handle : Half) (selection : Byte) (level : Half) (priority : Byte) (hold : Half) (s : State) :
    State × Reply :=
  if amendRefused selection priority then s.refused .badParameter
  else
    match s.dt.named handle with
    | none => s.refused .noSuchDemand
    | some (slot, d) =>
      if d.source ≠ .host then s.refused .notOwner
      else if flagBit selection 0 ∧ d.intent = .off then s.refused .badParameter
      else (s.amendAt slot (amended s.now selection level priority hold d) (flagBit selection 1), Reply.ok)

/-! ### RETIRE (R14), RETIRE-HOST-ALL (R15) -/

/-- RETIRE (R14). -/
def State.retireBody (handle : Half) (s : State) : State × Reply :=
  match s.dt.named handle with
  | none => s.refused .noSuchDemand
  | some (slot, d) => if d.source ≠ .host then s.refused .notOwner else (s.retireSlot slot, Reply.ok)

/-- A demand of the host. -/
def Demand.isHost (d : Demand) : Bool := decide (d.source = .host)

/-- RETIRE-HOST-ALL (R15): "The host count becomes 0." -/
def State.retireHostAllBody (s : State) : State × Reply :=
  let t := s.retireWhere Demand.isHost
  ({ t with dt := { t.dt with hostCount := 0 } }, Reply.ok)

/-! ### Reads (R21) -/

/-- READ-DEMAND (R21). -/
def State.readDemandBody (handle : Half) (s : State) : State × Reply :=
  match s.dt.named handle with
  | none => s.refused .noSuchDemand
  | some (slot, _) => (s, Reply.read (s.demandBytes slot))

/-- LIST-CIRCUIT (R21; log 27 on a GAUGE circuit). -/
def State.listCircuitBody (circuit : Byte) (s : State) : State × Reply :=
  match circuitOf circuit with
  | none => s.refused .badParameter
  | some c => (s, Reply.read (s.listBytes c))

/-! ### Meanings -/

/-- PLACE. -/
def execPlace (circuit intent : Byte) (level : Half) (priority : Byte) (hold : Half) (gated : Byte) (s : State) :
    Host.Outcome State Fault Refusal :=
  .next (s.frame 0x10 (State.placeBody circuit intent level priority hold gated))

/-- AMEND. -/
def execAmend (handle : Half) (selection : Byte) (level : Half) (priority : Byte) (hold : Half) (s : State) :
    Host.Outcome State Fault Refusal :=
  .next (s.frame 0x11 (State.amendBody handle selection level priority hold))

/-- RETIRE. -/
def execRetire (handle : Half) (s : State) : Host.Outcome State Fault Refusal :=
  .next (s.frame 0x12 (State.retireBody handle))

/-- RETIRE-HOST-ALL. -/
def execRetireHostAll (s : State) : Host.Outcome State Fault Refusal :=
  .next (s.frame 0x13 State.retireHostAllBody)

/-- READ-DEMAND. -/
def execReadDemand (handle : Half) (s : State) : Host.Outcome State Fault Refusal :=
  .next (s.frame 0x14 (State.readDemandBody handle))

/-- LIST-CIRCUIT. -/
def execListCircuit (circuit : Byte) (s : State) : Host.Outcome State Fault Refusal :=
  .next (s.frame 0x15 (State.listCircuitBody circuit))

end Sys2Proof.Machine
end

