-- ==== Sys2Proof/Machine/HostGauges.lean ====
section
/-! DEFINITION. The gauge and supply commands: GAUGE-DIRECT, GAUGE-RELEASE, READ-GAUGE (05_period_gauges.md),
READ-SUPPLY (R144). -/

namespace Sys2Proof.Machine

open Sys2Proof

/-- Whether a channel's state admits GAUGE-DIRECT (R102). -/
def GaugeState.admitsDirect : GaugeState → Bool
  | .disabled => false
  | .off => false
  | .settling => false
  | .tracking => true
  | .faultHold => true
  | .rest => true
  | .direct => true

/-- The channel driven directly (R102): in DIRECT already, only the reading is new. -/
def Channel.toDirect (reading : Nat) (ch : Channel) : Channel :=
  if ch.state = .direct then { ch with directReading := some reading }
  else
    { ch with
      state := .direct
      directReading := some reading
      faultRun := 0
      goodRun := 0
      hold := 0
      setCount := 0
      clearCount := 0 }

/-- GAUGE-DIRECT (R102). -/
def State.gaugeDirectBody (channel : Byte) (reading : Half) (s : State) : State × Reply :=
  match channelOf channel with
  | none => s.refused .badParameter
  | some g =>
    if s.sbu.power ≠ .run then s.refused .wrongState
    else if ¬ (s.ge[g]).state.admitsDirect then s.refused .wrongState
    else (s.setChannel g ((s.ge[g]).toDirect (min 1000 reading.toNat)), Reply.ok)

/-- The channel returned to its sender (R103). -/
def Channel.toSender (ch : Channel) : Channel :=
  { ch with state := .tracking, directReading := none, faultRun := 0, goodRun := 0, setCount := 0, clearCount := 0 }

/-- GAUGE-RELEASE (R103). -/
def State.gaugeReleaseBody (channel : Byte) (s : State) : State × Reply :=
  match channelOf channel with
  | none => s.refused .badParameter
  | some g =>
    if (s.ge[g]).state ≠ .direct then s.refused .wrongState else (s.setChannel g (s.ge[g]).toSender, Reply.ok)

/-- READ-GAUGE (R104). -/
def State.readGaugeBody (channel : Byte) (s : State) : State × Reply :=
  match channelOf channel with
  | none => s.refused .badParameter
  | some g => (s, Reply.read (s.gaugeBytes g))

/-- READ-SUPPLY (R144). -/
def State.readSupplyBody (s : State) : State × Reply := (s, Reply.read s.supplyBytes)

/-! ### Meanings -/

/-- GAUGE-DIRECT. -/
def execGaugeDirect (channel : Byte) (reading : Half) (s : State) : Host.Outcome State Fault Refusal :=
  .next (s.frame 0x40 (State.gaugeDirectBody channel reading))

/-- GAUGE-RELEASE. -/
def execGaugeRelease (channel : Byte) (s : State) : Host.Outcome State Fault Refusal :=
  .next (s.frame 0x41 (State.gaugeReleaseBody channel))

/-- READ-GAUGE. -/
def execReadGauge (channel : Byte) (s : State) : Host.Outcome State Fault Refusal :=
  .next (s.frame 0x42 (State.readGaugeBody channel))

/-- READ-SUPPLY. -/
def execReadSupply (s : State) : Host.Outcome State Fault Refusal :=
  .next (s.frame 0x50 State.readSupplyBody)

end Sys2Proof.Machine
end

