-- ==== Sys2Proof/Machine/HostStore.lean ====
section
/-! DEFINITION. The store and part commands: SAVE, LOCK-STORE, ERASE-STORE (10_stored_configuration_and_start_up.md),
RESET (R154). -/

namespace Sys2Proof.Machine

open Sys2Proof

/-- A save judged (R170, R171), with the lock byte it carries. -/
def State.saveJudged (lock : Bool) (s : State) : State × Reply :=
  if s.cs.state ≠ .idle then s.refused .busy
  else if s.cs.lock then s.refused .storeLocked
  else (s.beginSave lock, Reply.ok)

/-- SAVE (R170). -/
def State.saveBody (s : State) : State × Reply := s.saveJudged false

/-- LOCK-STORE (R171). -/
def State.lockStoreBody (s : State) : State × Reply := s.saveJudged true

/-- An erase accepted: page 0 in hand (R172). -/
def State.beginErase (s : State) : State := { s with cs := { s.cs with state := .erasing 0 } }

/-- ERASE-STORE (R172). -/
def State.eraseStoreBody (s : State) : State × Reply :=
  if s.cs.state ≠ .idle then s.refused .busy
  else if s.sbu.power = .run then s.refused .wrongState
  else (s.beginErase, Reply.ok)

/-- RESET (R154). -/
def State.resetBody (s : State) : State × Reply :=
  if s.cs.state ≠ .idle then s.refused .busy else (s.restart, Reply.ok)

/-! ### Meanings -/

/-- SAVE. -/
def execSave (s : State) : Host.Outcome State Fault Refusal := .next (s.frame 0x80 State.saveBody)

/-- LOCK-STORE. -/
def execLockStore (s : State) : Host.Outcome State Fault Refusal := .next (s.frame 0x81 State.lockStoreBody)

/-- ERASE-STORE. -/
def execEraseStore (s : State) : Host.Outcome State Fault Refusal := .next (s.frame 0x82 State.eraseStoreBody)

/-- RESET. -/
def execReset (s : State) : Host.Outcome State Fault Refusal := .next (s.frame 0x90 State.resetBody)

end Sys2Proof.Machine
end

