-- ==== Sys2Proof/Machine/Cascades.lean ====
section
/-! DEFINITION. What an applied window write brings about in the blocks that own its table (R160). In each function the
state's `cfg` is the configuration after the write and `old` the one before it. -/

namespace Sys2Proof.Machine

open Sys2Proof

/-! ### CIRCUIT (R27, R127, R143) -/

/-- The granted level after a CIRCUIT write, from the level resolved after it (R27; R127 for the kind MOTOR). -/
def Circuit.regranted (old k : CircuitCfg) (fan : FanCfg) (resolved : Nat) (r : Circuit) : Nat :=
  let kept := if k.kind = .motor then fan.stepAtMost r.granted else r.granted
  if k.cls = 0 then (if old.kind ≠ k.kind ∨ old.cls ≠ 0 then resolved else r.granted)
  else if old.cls = 0 ∨ old.rated ≠ k.rated then 0
  else if old.kind ≠ k.kind then min kept resolved
  else r.granted

/-- One changed circuit after a CIRCUIT write (R27). A kind change sets the dynamic part to its reset values but for
the resolved level, the granted level, the winner and the mode; the resolved level is formed for the new kind from
the Demand Table's (R127). The phase sample of the ON phase in progress is open again (log 40). -/
def Circuit.rewritten (old k : CircuitCfg) (fan : FanCfg) (now level : Nat) (r : Circuit) : Circuit :=
  if old.kind = k.kind then
    ({ r with shed := if k.cls = 0 ∧ old.cls ≠ 0 then none else r.shed } : Circuit).regrant k fan now false
      (r.regranted old k fan r.resolved)
  else
    ({ Circuit.reset with
      resolved := recordLevel k fan level
      granted := r.regranted old k fan (recordLevel k fan level)
      winner := r.winner
      flashing := r.flashing } : Circuit).startIfGranted k fan now

/-- A circuit's record replaced; a change of its shed flag is a change of the shed set (R140). -/
def State.setCircuit (c : CircuitId) (r : Circuit) (s : State) : State :=
  { s with
    cc := s.cc.set c r
    lp := s.lp.raiseIf .shedChanged (decide (r.shed.isSome ≠ (s.cc[c]).shed.isSome)) }

/-- A change of class, rated current or kind, which is an evaluation event (R141, R143). -/
def CircuitCfg.budgetDiffers (a b : CircuitCfg) : Bool :=
  decide (a.cls ≠ b.cls) || decide (a.rated ≠ b.rated) || decide (a.kind ≠ b.kind)

/-- A CIRCUIT write at one circuit (R27). -/
def State.circuitWritten (old : LiveConfig) (c : CircuitId) (s : State) : State :=
  let ko := old.circuits[c]
  let k := s.cfg.circuits[c]
  if ko = k then s
  else
    let t := s.setCircuit c ((s.cc[c]).rewritten ko k s.cfg.fan s.now (s.dt.res[c]).resolved)
    { t with evaluate := t.evaluate || ko.budgetDiffers k }

/-! ### BINDING (R60), LANE (R72), FLASH (R73, R84) -/

/-- A BINDING write at one binding. -/
def State.bindingWritten (old : LiveConfig) (n : BindingId) (s : State) : State :=
  if old.bindings[n] = s.cfg.bindings[n] then s else s.editBinding n

/-- Whether a circuit's winner is a demand of a lane. -/
def State.winnerOfLane (s : State) (side : Side) (c : CircuitId) : Bool :=
  match s.dt.winner c with
  | none => false
  | some (_, d) => decide (d.source = .lane side)

/-- A LANE write at one lane: nothing moves on an inactive lane. -/
def State.laneWritten (old : LiveConfig) (side : Side) (s : State) : State :=
  let lo := old.lane side
  let l := s.cfg.lane side
  if lo = l ∨ ¬ s.fu.covers side then s
  else if lo.members ≠ l.members then (s.retireLane side lo.members).placeLane side
  else
    let t := if lo.priority = l.priority then s else s.placeLane side
    if lo.level = l.level then t else t.resolveAll false false (t.winnerOfLane side)

/-- A FLASH write: the tick mode is taken at once; the rest at the next phase start or clock start. -/
def State.flashWritten (old : LiveConfig) (s : State) : State :=
  if old.flash.tick = s.cfg.flash.tick then s else { s with fu := s.fu.tickMode s.cfg.flash.tick }

/-! ### FAN (R127) -/

/-- A change of the steps at the MOTOR circuit (R127): a sheddable grant is lowered to a step, the level is mapped
anew, and a rise of a sheddable fan's mapped level is an evaluation event. A mapped level that falls below the grant
held before the write is a fall of R142: the grant falls to it at once, which clears the shed flag (log 38). -/
def State.stepsWritten (c : CircuitId) (s : State) : State :=
  let k := s.cfg.circuits[c]
  let fan := s.cfg.fan
  let r := s.cc[c]
  let level := recordLevel k fan (s.dt.res[c]).resolved
  let lowered := if k.cls = 0 ∨ level < r.granted then r else r.regrant k fan s.now false (fan.stepAtMost r.granted)
  let t := s.setCircuit c (if level = r.resolved then lowered else lowered.setResolved k fan s.now false level)
  { t with evaluate := t.evaluate || (decide (k.cls ≠ 0) && decide (r.resolved < level)) }

/-- A FAN write. Start level, ramp rate and stall current are read when they are next needed. -/
def State.fanWritten (old : LiveConfig) (s : State) : State :=
  if old.fan.steps = s.cfg.fan.steps ∧ old.fan.count = s.cfg.fan.count then s
  else
    (allCircuits.filter (fun c => decide ((s.cfg.circuits[c]).kind = .motor))).foldl (fun t c => t.stepsWritten c) s

/-! ### BUDGET (R143) -/

/-- The supply runs end (R131). -/
def Supply.endSupplyRuns (u : Supply) : Supply :=
  { u with belowLow := none, belowCritical := none, aboveLow := none, aboveCritical := none }

/-- The charge runs end (R132). -/
def Supply.endChargeRuns (u : Supply) : Supply := { u with atThreshold := none, belowThreshold := none }

/-- Whether a BUDGET write ends the supply runs (R131). -/
def BudgetCfg.endsSupplyRuns (old b : BudgetCfg) : Bool :=
  decide (old.system ≠ b.system) || decide (old.low ≠ b.low) || decide (old.critical ≠ b.critical)

/-- Whether a BUDGET write ends the charge runs (R132). -/
def BudgetCfg.endsChargeRuns (old b : BudgetCfg) : Bool :=
  decide (old.chargeThr ≠ b.chargeThr) || (decide (old.system ≠ b.system) && decide (b.chargeThr = 0))

/-- A BUDGET write: runs, charge lamp (R133), an evaluation event (R141). -/
def State.budgetWritten (old : LiveConfig) (s : State) : State :=
  let u := s.sbu
  let u := if old.budget.endsSupplyRuns s.cfg.budget then u.endSupplyRuns else u
  let u := if old.budget.endsChargeRuns s.cfg.budget then u.endChargeRuns else u
  ({ s with sbu := u } : State).chargeLamp.wantEvaluation

/-! ### LINK (R61) -/

/-- The ignition state formed anew from new settings: a change is an ignition event, with R58 or R59 for the gated
bindings. -/
def State.reformIgnition (s : State) : State :=
  let new := s.ignitionLevel
  if new = s.ibu.ignition then s
  else ({ s with ibu := { s.ibu with ignition := new } } : State).ignitionEvent (fun b => b.gated) (!new)

/-- The inputs whose active level a LINK write changed. -/
def LinkCfg.levelChanged (old l : LinkCfg) (i : InputId) : Bool :=
  decide (old.activeHigh.getLsbD i.val ≠ l.activeHigh.getLsbD i.val)

/-- The enabled bindings that read such an input, treated as edited in ascending order. -/
def State.editReaders (which : InputId → Bool) (s : State) : State :=
  allBindings.foldl (fun t n =>
    if (t.cfg.bindings[n]).enable && (t.cfg.bindings[n]).reads which then t.editBinding n else t) s

/-- A LINK write: address, general call and mask are read where they are used; a change of the input settings is taken
by the Input Binding Unit. -/
def State.linkWritten (old : LiveConfig) (s : State) : State :=
  if old.link.activeHigh = s.cfg.link.activeHigh ∧ old.link.ignition = s.cfg.link.ignition then s
  else s.reformIgnition.editReaders (old.link.levelChanged s.cfg.link)

/-! ### The whole write (R160) -/

/-- A GAUGE or curve write: the channels in ascending order (R89). -/
def State.gaugesWritten (old : LiveConfig) (s : State) : State :=
  allChannels.foldl (fun t g => t.gaugeWritten g old.gauges[g] t.cfg.gauges[g]) s

/-- The cascades of an applied write to a table. -/
def State.cascade (t : Table) (old : LiveConfig) (s : State) : State :=
  match t with
  | .circuit => allCircuits.foldl (fun t c => t.circuitWritten old c) s
  | .binding => allBindings.foldl (fun t n => t.bindingWritten old n) s
  | .lane => allSides.foldl (fun t side => t.laneWritten old side) s
  | .flash => s.flashWritten old
  | .gauge => s.gaugesWritten old
  | .sender _ => s.gaugesWritten old
  | .drive _ => s.gaugesWritten old
  | .fan => s.fanWritten old
  | .budget => s.budgetWritten old
  | .link => s.linkWritten old
  | .circuitState => s
  | .gaugeState => s
  | .demand => s

end Sys2Proof.Machine
end

