-- ==== Sys2Proof/Machine/HostTables.lean ====
section
/-! DEFINITION. The table and status commands: SET-WINDOW, WRITE-STREAM, READ-STREAM, READ-STATUS, ACK-STATUS, READ-RESULT
(09_link_port_commands_and_status.md). -/

namespace Sys2Proof.Machine

open Sys2Proof

/-! ### SET-WINDOW (R155) -/

/-- The Link Port with its window set. -/
def State.setWindow (w : Window) (s : State) : State := { s with lp := { s.lp with window := some w } }

/-- SET-WINDOW (R155): the last entry is clamped to the table's last. -/
def State.setWindowBody (table first last : Byte) (s : State) : State × Reply :=
  match tableOf table with
  | none => s.refused .badParameter
  | some t =>
    let last := min last.toNat (t.entries - 1)
    if t.entries ≤ first.toNat then s.refused .badParameter
    else if last < first.toNat then s.refused .badParameter
    else (s.setWindow ⟨t, first.toNat, last⟩, Reply.ok)

/-! ### WRITE-STREAM (R157 to R160) -/

/-- The result of an applied stream: TRUNCATED when any byte was ignored (R157). -/
def streamResult (w : Window) (written : Nat) (data : List Byte) : Result :=
  if w.table.entryBytes * written = data.length then .ok else .truncated

/-- The complete entries of a stream that fall within the window (R157). -/
def Window.cut (w : Window) (data : List Byte) : List (List Byte) := cutEntries w.table.entryBytes w.count data

/-- A stream's entries checked and applied at once, with their cascades (R158 to R160). -/
def State.applyStream (w : Window) (data : List Byte) (s : State) : State × Reply :=
  match s.cfg.writeEntries w.table w.first (w.cut data) with
  | none => s.refused .invalidTable
  | some cfg =>
    if cfg.accepts s.occupied w.table then
      (({ s with cfg := cfg } : State).cascade w.table s.cfg, ⟨streamResult w (w.cut data).length data, [], 0⟩)
    else s.refused .invalidTable

/-- WRITE-STREAM (R157). A stream shorter than one entry writes nothing and answers TRUNCATED. -/
def State.writeStreamBody (data : List Byte) (s : State) : State × Reply :=
  match s.lp.window with
  | none => s.refused .noWindow
  | some w =>
    if w.table.readOnly then s.refused .badCommand
    else if s.cs.state ≠ .idle then s.refused .busy
    else if s.cs.lock then s.refused .storeLocked
    else if w.cut data = [] then s.refused .truncated
    else s.applyStream w data

/-- WRITE-STREAM as a frame: 1 to 258 data bytes, another number refused by R149. -/
def State.writeStreamFrame (data : List Byte) (s : State) : State × Reply :=
  if 1 ≤ data.length ∧ data.length ≤ 258 then s.writeStreamBody data else s.refused .badParameter

/-! ### READ-STREAM (R156), READ-STATUS (R163), READ-RESULT (R151) -/

/-- READ-STREAM (R156). -/
def State.readStreamBody (s : State) : State × Reply :=
  match s.lp.window with
  | none => s.refused .noWindow
  | some w => (s, Reply.read (s.windowBytes w))

/-- READ-STATUS (R163). -/
def State.readStatusBody (s : State) : State × Reply := (s, Reply.read s.statusBytes)

/-- READ-RESULT data: the last result as it stood before the frame (R151). -/
def LastResult.bytes (l : LastResult) : List Byte := [l.code, byteOf l.result.code] ++ le16 l.handle

/-- READ-RESULT (R151). -/
def State.readResultBody (s : State) : State × Reply := (s, Reply.read s.lp.last.bytes)

/-! ### ACK-STATUS (R164) -/

/-- The named conditions leave the pending set. -/
def State.acknowledge (conditions : StatusSet) (s : State) : State :=
  { s with lp := { s.lp with pending := s.lp.pending &&& ~~~conditions } }

/-- ACK-STATUS (R164): a set that names a member beyond the twelve is refused. -/
def State.ackStatusBody (conditions : Half) (s : State) : State × Reply :=
  if 4096 ≤ conditions.toNat then s.refused .badParameter
  else (s.acknowledge (BitVec.ofNat 12 conditions.toNat), Reply.ok)

/-! ### Meanings -/

/-- SET-WINDOW. -/
def execSetWindow (table first last : Byte) (s : State) : Host.Outcome State Fault Refusal :=
  .next (s.frame 0x60 (State.setWindowBody table first last))

/-- WRITE-STREAM. -/
def execWriteStream (entries : List Byte) (s : State) : Host.Outcome State Fault Refusal :=
  .next (s.frame 0x61 (State.writeStreamFrame entries))

/-- READ-STREAM. -/
def execReadStream (s : State) : Host.Outcome State Fault Refusal :=
  .next (s.frame 0x62 State.readStreamBody)

/-- READ-STATUS. -/
def execReadStatus (s : State) : Host.Outcome State Fault Refusal :=
  .next (s.frame 0x70 State.readStatusBody)

/-- ACK-STATUS. -/
def execAckStatus (conditions : Half) (s : State) : Host.Outcome State Fault Refusal :=
  .next (s.frame 0x71 (State.ackStatusBody conditions))

/-- READ-RESULT. -/
def execReadResult (s : State) : Host.Outcome State Fault Refusal :=
  .next (s.frame 0x91 State.readResultBody)

end Sys2Proof.Machine
end

