-- ==== Sys2Proof/Machine/Frames.lean ====
section
/-! DEFINITION. WRITE_FRAME: a write frame as its bytes, judged by R149, and ADDRESS_MATCH_WAKE (R136, R147, R148). -/

namespace Sys2Proof.Machine

open Sys2Proof

/-! ### Execution by command -/

/-- The rules of a link command; an event is no command of a frame. -/
def State.execute : Instr → State → State × Reply
  | .place c i l p h g, s => s.placeBody c i l p h g
  | .amend n sel l p h, s => s.amendBody n sel l p h
  | .retire n, s => s.retireBody n
  | .retireHostAll, s => s.retireHostAllBody
  | .readDemand n, s => s.readDemandBody n
  | .listCircuit c, s => s.listCircuitBody c
  | .readCircuit c, s => s.readCircuitBody c
  | .clearFault c, s => s.clearFaultBody c
  | .flash l n, s => s.flashBody l n
  | .flashStop, s => s.flashStopBody
  | .lampTest d, s => s.lampTestBody d
  | .gaugeDirect c r, s => s.gaugeDirectBody c r
  | .gaugeRelease c, s => s.gaugeReleaseBody c
  | .readGauge c, s => s.readGaugeBody c
  | .readSupply, s => s.readSupplyBody
  | .setWindow t a b, s => s.setWindowBody t a b
  | .writeStream data, s => s.writeStreamFrame data
  | .readStream, s => s.readStreamBody
  | .readStatus, s => s.readStatusBody
  | .ackStatus n, s => s.ackStatusBody n
  | .save, s => s.saveBody
  | .lockStore, s => s.lockStoreBody
  | .eraseStore, s => s.eraseStoreBody
  | .reset, s => s.resetBody
  | .readResult, s => s.readResultBody
  | .powerOnReset _, s | .writeFrame _ _, s | .addressMatchWake _ _, s | .senseSample _, s | .inputWake _, s
  | .holdExpiry, s | .inrushExpiry _, s | .currentMeasurement _ _, s | .retryExpiry _, s | .quietTimeExpiry _, s
  | .rampStep _, s | .onPhaseExpiry, s | .offPhaseExpiry, s | .syncLineFall, s | .syncLineRise, s
  | .waitSyncTimeout, s | .tickPulseEnd, s | .senderConversion _ _, s | .gaugeTick _, s | .supplySample _ _, s
  | .evaluationTimerExpiry, s | .sleepTimerExpiry, s | .savePageProgrammed _, s | .saveVerifyEnd, s
  | .erasePageErased _, s | .powerLossOrResetAsserted, s => s.refused .badCommand

/-! ### Judgement (R149) -/

/-- The commands taken in a general call (R148): LAMP-TEST and RESET. -/
def takenInGeneralCall (code : Byte) : Bool := decide (code = 0x32) || decide (code = 0x90)

/-- R149's judgement of a frame of one byte or more, in its order; the first byte is the command code. -/
def State.judgeFrame (general : Bool) (code : Byte) (rest : List Byte) (s : State) : State × Reply :=
  if longestFrame < rest.length + 1 then s.refused .badParameter
  else if rest = [] then s.refused .badParameter
  else if byteSum (code :: rest) ≠ 0 then s.refused .checkFailed
  else if ¬ namesCommand code then s.refused .badCommand
  else if general ∧ ¬ takenInGeneralCall code then s.refused .badCommand
  else
    match commandOf code rest.dropLast with
    | none => s.refused .badParameter
    | some i => s.execute i

/-- The bytes a master wrote after the part's address or an enabled general call (R149). With no byte there is no frame;
the address match alone wakes a sleeping part (R136). -/
def State.takeFrame (general : Bool) (bytes : List Byte) (s : State) : State :=
  match bytes with
  | [] => s.event State.isAsleep State.wake
  | code :: rest => s.frame code (State.judgeFrame general code rest)

/-- WRITE_FRAME: traffic for another address changes no state (R147). -/
def State.writeFrame (address : BitVec 7) (bytes : List Byte) (s : State) : State :=
  if s.isOwn address then s.takeFrame false bytes
  else if s.isGeneral address then s.takeFrame true bytes
  else s

/-! ### Meanings -/

/-- WRITE_FRAME. -/
def execWriteFrame (address : BitVec 7) (bytes : List Byte) (s : State) : Host.Outcome State Fault Refusal :=
  .next (s.writeFrame address bytes)

/-- ADDRESS_MATCH_WAKE. -/
def execAddressMatchWake (address : BitVec 7) (read : Bool) (s : State) : Host.Outcome State Fault Refusal :=
  .next (s.event (fun s => s.acknowledges address read && s.isAsleep) State.wake)

end Sys2Proof.Machine
end

