-- ==== Sys2Proof/Machine/GaugeEvents.lean ====
section
/-! DEFINITION. The gauge events: SENDER_CONVERSION (R90), GAUGE_TICK (R91). -/

namespace Sys2Proof.Machine

open Sys2Proof

/-- One conversion: the code joins the buffer of four, the next conversion falls 20 ms later (R90). -/
def State.convert (g : ChannelId) (code : Nat) (s : State) : State :=
  s.setChannel g { s.ge[g] with codes := pushFour (s.ge[g]).codes (min code 4095), convertDue := some (s.now + 20) }

/-- Whether a channel's next conversion has come. -/
def State.convertReady (g : ChannelId) (s : State) : Bool := timerOut (s.ge[g]).convertDue s.now

/-- SENDER_CONVERSION, at its moment on the channel's 20 ms schedule. -/
def execSenderConversion (g : ChannelId) (code : Nat) (s : State) : Host.Outcome State Fault Refusal :=
  .next (s.event (State.convertReady g) (State.convert g code))

/-- Whether a channel's next tick has come. -/
def State.gaugeReady (g : ChannelId) (s : State) : Bool := timerOut (s.ge[g]).tickDue s.now

/-- GAUGE_TICK. -/
def execGaugeTick (g : ChannelId) (s : State) : Host.Outcome State Fault Refusal :=
  .next (s.event (State.gaugeReady g) (State.gaugeTick g))

end Sys2Proof.Machine
end

