-- ==== Sys2Proof/Machine/InputEvents.lean ====
section
/-! DEFINITION. The events at the sense inputs: SENSE_SAMPLE (R47, R48), INPUT_WAKE (R49). -/

namespace Sys2Proof.Machine

open Sys2Proof

/-- Whether the next sample of the inputs has come. -/
def State.senseReady (s : State) : Bool := timerOut s.ibu.sampleDue s.now

/-- SENSE_SAMPLE, at its moment on the 5 ms schedule. -/
def execSenseSample (levels : BitVec 12) (s : State) : Host.Outcome State Fault Refusal :=
  .next (s.event State.senseReady (State.senseSample levels))

/-- INPUT_WAKE: a raw change on any input wakes a sleeping part, whatever reads that input. -/
def execInputWake (_input : InputId) (s : State) : Host.Outcome State Fault Refusal :=
  .next (s.event State.isAsleep State.wake)

end Sys2Proof.Machine
end

