-- ==== Sys2Proof/Machine/PowerEvents.lean ====
section
/-! DEFINITION. POWER_ON_RESET and POWER_LOSS_OR_RESET_ASSERTED (R174). -/

namespace Sys2Proof.Machine

open Sys2Proof

/-- POWER_ON_RESET: with power or without, since each release of RESET is one; taken whole (log 31). -/
def execPowerOnReset (straps : BitVec 2) (s : State) : Host.Outcome State Fault Refusal :=
  .next (s.powerOn straps)

/-- POWER_LOSS_OR_RESET_ASSERTED; on a part already without power it changes nothing. -/
def execPowerLossOrResetAsserted (s : State) : Host.Outcome State Fault Refusal :=
  .next (if s.powered then s.powerLoss else s)

end Sys2Proof.Machine
end

