-- ==== Sys2Proof/Machine/StoreEvents.lean ====
section
/-! DEFINITION. The store events: SAVE_PAGE_PROGRAMMED, SAVE_VERIFY_END (R170, R171), ERASE_PAGE_ERASED (R172). -/

namespace Sys2Proof.Machine

open Sys2Proof

/-- SAVE_PAGE_PROGRAMMED on the state: the page in hand of a save is done. -/
def State.savePage (defects : PageDefects) (s : State) : State :=
  match s.cs.state.savingPage with
  | none => s
  | some page => s.pageSaved page defects

/-- SAVE_PAGE_PROGRAMMED. -/
def execSavePageProgrammed (defects : PageDefects) (s : State) : Host.Outcome State Fault Refusal :=
  .next (s.event (fun s => s.cs.state.savingPage.isSome) (State.savePage defects))

/-- SAVE_VERIFY_END: only after page 31 is programmed. -/
def execSaveVerifyEnd (s : State) : Host.Outcome State Fault Refusal :=
  .next (s.event (fun s => s.cs.state.verifying) State.endVerify)

/-- The end of an erase (R172): a software reset with the factory defaults as the configuration and the lock flag
clear; last result and response are those of ERASE-STORE. -/
def State.endErase (s : State) : State :=
  let t := ({ s with cfg := factoryConfig, cs := { s.cs with lock := false } } : State).restart
  t.answer 0x82 Reply.ok

/-- ERASE_PAGE_ERASED on the state: the page in hand of an erase is done; page 31 is the last. -/
def State.erasePage (defects : PageDefects) (s : State) : State :=
  match s.cs.state.erasingPage with
  | none => s
  | some page =>
    let t := s.pageErased page defects
    if page + 1 < pageCount then t else t.endErase

/-- ERASE_PAGE_ERASED. -/
def execErasePageErased (defects : PageDefects) (s : State) : Host.Outcome State Fault Refusal :=
  .next (s.event (fun s => s.cs.state.erasingPage.isSome) (State.erasePage defects))

end Sys2Proof.Machine
end

