-- ==== Sys2Proof/Machine/SupplyEvents.lean ====
section
/-! DEFINITION. The supply events: SUPPLY_SAMPLE (R130 to R132), EVALUATION_TIMER_EXPIRY (R141), SLEEP_TIMER_EXPIRY (R135,
R136). -/

namespace Sys2Proof.Machine

open Sys2Proof

/-- One sample of both inputs: the supply, then the charge terminal; the next falls 20 ms later. -/
def State.sampleBoth (vsense csense : Nat) (s : State) : State :=
  (({ s with sbu := { s.sbu with sampleDue := some (s.now + 20) } } : State).takeSupply vsense).takeCharge csense

/-- Whether the next supply sample has come. -/
def State.supplyReady (s : State) : Bool := timerOut s.sbu.sampleDue s.now

/-- SUPPLY_SAMPLE, at its moment on the 20 ms schedule. -/
def execSupplySample (vsense csense : Nat) (s : State) : Host.Outcome State Fault Refusal :=
  .next (s.event State.supplyReady (State.sampleBoth vsense csense))

/-- The 1 s timer restarted, and an evaluation event (R141). -/
def State.evaluationTick (s : State) : State :=
  ({ s with sbu := { s.sbu with evaluateDue := some (s.now + 1000) } } : State).wantEvaluation

/-- Whether the 1 s timer has run out. -/
def State.evaluationReady (s : State) : Bool := timerOut s.sbu.evaluateDue s.now

/-- EVALUATION_TIMER_EXPIRY. -/
def execEvaluationTimerExpiry (s : State) : Host.Outcome State Fault Refusal :=
  .next (s.event State.evaluationReady State.evaluationTick)

/-- R135: 30 s. -/
def sleepTime : Nat := 30000

/-- Whether the sleep timer has reached 30 s. -/
def State.sleepDue (s : State) : Bool :=
  decide (s.sbu.power = .parked) && timerOut (s.sbu.sleepSince.map (· + sleepTime)) s.now

/-- SLEEP_TIMER_EXPIRY. -/
def execSleepTimerExpiry (s : State) : Host.Outcome State Fault Refusal :=
  .next (s.event State.sleepDue State.enterAsleep)

end Sys2Proof.Machine
end

