-- ==== Sys2Proof/Machine/Dispatch.lean ====
section
/-! DEFINITION. The command's effect on everything but the queue: one arm per command, each a call of its meaning. -/

namespace Sys2Proof.Machine

open Sys2Proof

/-- The effect of a command (spec/opcode_table.json). -/
def exec (i : Instr) (s : State) : Host.Outcome State Fault Refusal :=
  match i with
  | .powerOnReset straps => Sys2Proof.Machine.execPowerOnReset straps s
  | .writeFrame address bytes => Sys2Proof.Machine.execWriteFrame address bytes s
  | .addressMatchWake address read => Sys2Proof.Machine.execAddressMatchWake address read s
  | .place circuit intent level priority hold gated => Sys2Proof.Machine.execPlace circuit intent level priority hold gated s
  | .amend handle selection level priority hold => Sys2Proof.Machine.execAmend handle selection level priority hold s
  | .retire handle => Sys2Proof.Machine.execRetire handle s
  | .retireHostAll => Sys2Proof.Machine.execRetireHostAll s
  | .readDemand handle => Sys2Proof.Machine.execReadDemand handle s
  | .listCircuit circuit => Sys2Proof.Machine.execListCircuit circuit s
  | .readCircuit circuit => Sys2Proof.Machine.execReadCircuit circuit s
  | .clearFault circuit => Sys2Proof.Machine.execClearFault circuit s
  | .flash lanes count => Sys2Proof.Machine.execFlash lanes count s
  | .flashStop => Sys2Proof.Machine.execFlashStop s
  | .lampTest duration => Sys2Proof.Machine.execLampTest duration s
  | .gaugeDirect channel reading => Sys2Proof.Machine.execGaugeDirect channel reading s
  | .gaugeRelease channel => Sys2Proof.Machine.execGaugeRelease channel s
  | .readGauge channel => Sys2Proof.Machine.execReadGauge channel s
  | .readSupply => Sys2Proof.Machine.execReadSupply s
  | .setWindow table first last => Sys2Proof.Machine.execSetWindow table first last s
  | .writeStream entries => Sys2Proof.Machine.execWriteStream entries s
  | .readStream => Sys2Proof.Machine.execReadStream s
  | .readStatus => Sys2Proof.Machine.execReadStatus s
  | .ackStatus conditions => Sys2Proof.Machine.execAckStatus conditions s
  | .save => Sys2Proof.Machine.execSave s
  | .lockStore => Sys2Proof.Machine.execLockStore s
  | .eraseStore => Sys2Proof.Machine.execEraseStore s
  | .reset => Sys2Proof.Machine.execReset s
  | .readResult => Sys2Proof.Machine.execReadResult s
  | .senseSample levels => Sys2Proof.Machine.execSenseSample levels s
  | .inputWake input => Sys2Proof.Machine.execInputWake input s
  | .holdExpiry => Sys2Proof.Machine.execHoldExpiry s
  | .inrushExpiry circuit => Sys2Proof.Machine.execInrushExpiry circuit s
  | .currentMeasurement circuit mean => Sys2Proof.Machine.execCurrentMeasurement circuit mean s
  | .retryExpiry circuit => Sys2Proof.Machine.execRetryExpiry circuit s
  | .quietTimeExpiry circuit => Sys2Proof.Machine.execQuietTimeExpiry circuit s
  | .rampStep circuit => Sys2Proof.Machine.execRampStep circuit s
  | .onPhaseExpiry => Sys2Proof.Machine.execOnPhaseExpiry s
  | .offPhaseExpiry => Sys2Proof.Machine.execOffPhaseExpiry s
  | .syncLineFall => Sys2Proof.Machine.execSyncLineFall s
  | .syncLineRise => Sys2Proof.Machine.execSyncLineRise s
  | .waitSyncTimeout => Sys2Proof.Machine.execWaitSyncTimeout s
  | .tickPulseEnd => Sys2Proof.Machine.execTickPulseEnd s
  | .senderConversion channel code => Sys2Proof.Machine.execSenderConversion channel code s
  | .gaugeTick channel => Sys2Proof.Machine.execGaugeTick channel s
  | .supplySample vsense csense => Sys2Proof.Machine.execSupplySample vsense csense s
  | .evaluationTimerExpiry => Sys2Proof.Machine.execEvaluationTimerExpiry s
  | .sleepTimerExpiry => Sys2Proof.Machine.execSleepTimerExpiry s
  | .savePageProgrammed defects => Sys2Proof.Machine.execSavePageProgrammed defects s
  | .saveVerifyEnd => Sys2Proof.Machine.execSaveVerifyEnd s
  | .erasePageErased defects => Sys2Proof.Machine.execErasePageErased defects s
  | .powerLossOrResetAsserted => Sys2Proof.Machine.execPowerLossOrResetAsserted s

end Sys2Proof.Machine
end

