-- ==== Sys2Proof/Machine/Clock.lean ====
section
/-! DEFINITION. The part on an empty queue (logs 1 and 3): a due timer event is delivered, a due sample is waited for,
otherwise one millisecond passes. -/

namespace Sys2Proof.Machine

open Sys2Proof

/-- A list of one event, or of none. -/
def eventIf (due : Bool) (i : Instr) : List Instr := if due then [i] else []

/-- The timer events of one circuit that are due. -/
def State.circuitTimers (s : State) (c : CircuitId) : List Instr :=
  eventIf (s.inrushReady c) (.inrushExpiry c) ++ eventIf (s.retryReady c) (.retryExpiry c) ++
    eventIf (s.quietReady c) (.quietTimeExpiry c) ++ eventIf (s.rampReady c) (.rampStep c)

/-- Every timer event that is due. -/
def State.dueEvents (s : State) : List Instr :=
  if s.powered then
    eventIf s.holdDue .holdExpiry ++ allCircuits.flatMap s.circuitTimers ++ eventIf s.onReady .onPhaseExpiry ++
      eventIf s.offReady .offPhaseExpiry ++ eventIf s.waitReady .waitSyncTimeout ++
      eventIf s.pulseReady .tickPulseEnd ++ allChannels.flatMap (fun g => eventIf (s.gaugeReady g) (.gaugeTick g)) ++
      eventIf s.evaluationReady .evaluationTimerExpiry ++ eventIf s.sleepDue .sleepTimerExpiry
  else []

/-- Whether a sample or a measurement is due, which comes from the car (log 3). -/
def State.awaitsSample (s : State) : Bool :=
  s.powered &&
    (s.senseReady || s.supplyReady || allChannels.any (fun g => s.convertReady g) ||
      allCircuits.any (fun c => s.measureReady c))

/-- The step on an empty queue: one of the due timer events, in the order `order` gives (log 4), or the clock. -/
def State.idle (s : State) : Host.Outcome State Fault Refusal :=
  match s.dueEvents with
  | [] => .next (if s.awaitsSample then s else { s with now := s.now + 1 })
  | e :: es => exec ((e :: es).getD (s.choose (es.length + 1)).1 e) (s.choose (es.length + 1)).2

end Sys2Proof.Machine
end

