-- ==== Sys2Proof/Machine/Step.lean ====
section
/-! DEFINITION. One step: the command at the front of the queue, or the clock on an empty queue. -/

namespace Sys2Proof.Machine

open Sys2Proof

/-- One step of the block. -/
def step (s : State) : Host.Outcome State Fault Refusal :=
  match s.pending with
  | [] => s.idle
  | c :: rest => exec c { s with pending := rest }

/-- The command that a word spells put at the front of the queue; the state as it stands where the word spells none. -/
def State.withFetchWord (s : State) (nbits w : Nat) : State :=
  match decodeTableWord nbits w with
  | none => s
  | some c => { s with pending := c :: s.pending }

end Sys2Proof.Machine
end

