-- ==== Sys2Proof/Safety.lean ====
section
/-! DEFINITION. What counts as a lawful state of the part, in the terms claims use: the laws of the demand table, of the
circuit levels, of the budget, of the gauges, of the configuration and of the image, what a block's working leaves alone,
what a write takes, what it brings about, and what a read shows. -/

namespace Sys2Proof.Machine

open Sys2Proof

/-! ### Between commands -/

/-- Powered, awake, and with no evaluation event waiting: the state in which a frame finds a part at work. -/
structure State.Ready (s : State) : Prop where
  powered : s.powered = true
  awake : s.sbu.power ≠ .asleep
  settled : s.evaluate = false

/-- What the working of a block leaves alone: everything but the demand table, the circuits, the inputs, the requests
and the clock, the channels, the supply, the pending set and `order`. -/
structure Standing where
  now : Nat
  powered : Bool
  cfg : LiveConfig
  cs : Store
  cuts : Nat
  pending : List Instr
  wireLow : Bool
  response : Option (List Byte)
  last : LastResult
  window : Option Window
  straps : BitVec 2

/-- The standing part of a state. -/
def State.standing (s : State) : Standing :=
  ⟨s.now, s.powered, s.cfg, s.cs, s.cuts, s.pending, s.fu.wireLow, s.lp.response, s.lp.last, s.lp.window, s.lp.straps⟩

/-- The sleep timer right after a frame (R135): at 0, running if its conditions hold. -/
def State.sleepAtZero (s : State) : Option Nat :=
  if s.sbu.power = .parked ∧ s.quiet then some s.now else none

/-! ### What a command leaves -/

/-- `s` after a frame that only answers (R149 to R151): the sleep timer at 0, the response and the last result. -/
def State.answered (code : Byte) (result : Result) (data : List Byte) (s : State) : State :=
  { s with
    sbu := { s.sbu with sleepSince := s.sleepAtZero }
    lp := { s.lp with response := some (responseBytes result data), last := ⟨code, result, 0⟩ } }

/-- `s` with its sleep timer formed by its conditions (R135). -/
def State.formed (s : State) : State := { s with sbu := { s.sbu with sleepSince := s.sleepTimer } }

/-- What a demand command or the end of a hold leaves alone. The circuits of `touched` are resolved anew; another
circuit of class 0 stands, and another sheddable one can only be granted anew. -/
structure State.DemandFrame (touched : CircuitId → Prop) (s t : State) : Prop where
  now : t.now = s.now
  powered : t.powered = s.powered
  cfg : t.cfg = s.cfg
  ibu : t.ibu = s.ibu
  fu : t.fu = s.fu
  ge : t.ge = s.ge
  cs : t.cs = s.cs
  order : t.order = s.order
  cuts : t.cuts = s.cuts
  pending : t.pending = s.pending
  supply : t.sbu = { s.sbu with sleepSince := t.sbu.sleepSince, last := t.sbu.last }
  window : t.lp.window = s.lp.window
  straps : t.lp.straps = s.lp.straps
  status : t.lp.pending = s.lp.pending ∨ t.lp.pending = s.lp.pending ||| Status.shedChanged.mark
  resolutions : ∀ c, ¬ touched c → t.dt.res[c] = s.dt.res[c]
  essential : ∀ c, ¬ touched c → (s.cfg.circuits[c]).cls = 0 → t.cc[c] = s.cc[c]
  sheddable : ∀ c, ¬ touched c →
    (t.cc[c]).resolved = (s.cc[c]).resolved ∧ (t.cc[c]).winner = (s.cc[c]).winner ∧
    (t.cc[c]).flashing = (s.cc[c]).flashing ∧ (t.cc[c]).lampOut = (s.cc[c]).lampOut ∧
    (t.cc[c]).trips = (s.cc[c]).trips ∧ (t.cc[c]).lastTrip = (s.cc[c]).lastTrip

/-- What the Demand Table hands on stands in the circuit record (R10, R11, R118). -/
structure State.InStep (s : State) (c : CircuitId) : Prop where
  resolved : (s.cc[c]).resolved = recordLevel s.cfg.circuits[c] s.cfg.fan (s.dt.res[c]).resolved
  winner : (s.cc[c]).winner = (s.dt.res[c]).winner

/-- `x` inserted at the front of its priority group (R9): behind the demands of higher priority, before the rest. -/
def DemandTable.Enters (dt : DemandTable) (priority : Nat) (x : SlotId) (old new : List SlotId) : Prop :=
  ∃ a b, old = a ++ b ∧ new = a ++ x :: b ∧ (∀ y ∈ a, priority < dt.priorityAt y) ∧
    (∀ y, b.head? = some y → dt.priorityAt y ≤ priority)

/-- A circuit dark with nothing behind it, as a reset leaves it (R45, R128). -/
def Circuit.AtReset (r : Circuit) : Prop :=
  r.state = .off ∧ r.resolved = 0 ∧ r.granted = 0 ∧ r.applied = 0 ∧ r.winner = none ∧ r.flashing = false ∧
    r.current = 0 ∧ r.lampOut = false ∧ r.confirm = 0 ∧ r.trips = 0 ∧ r.lastTrip = none ∧ r.shed = none ∧ r.stall = 0 ∧
    r.inrushDue = none ∧ r.retryDue = none ∧ r.quietDue = none ∧ r.rampDue = none ∧ r.measureDue = none

/-- The clock IDLE, the sync line and the tick line as a reset leaves them (R86). -/
def Flasher.AtReset (fu : Flasher) : Prop :=
  (fu.clock = .idle ∧ fu.phaseDue = none ∧ fu.waitDue = none ∧ fu.phaseFast = false) ∧
    (fu.synced = false ∧ fu.abandoned = false ∧ fu.pull = false ∧ fu.lineRead = true) ∧
    fu.tick = false ∧ fu.tickDue = none

/-- A channel's buffer, filter, counts and readouts, as a reset leaves them (R105). -/
def Channel.AtReset (ch : Channel) : Prop :=
  ch.codes = [] ∧ ch.code = 0 ∧ ch.averaged = 0 ∧ ch.resistance = none ∧ ch.reading = none ∧ ch.filter = 0 ∧
    ch.heater = 0 ∧ ch.target = 0 ∧ ch.supply = 0 ∧ ch.duty = 0 ∧ ch.faultRun = 0 ∧ ch.goodRun = 0 ∧ ch.hold = 0 ∧
    ch.setCount = 0 ∧ ch.clearCount = 0 ∧ ch.warning = false ∧ ch.undersupply = false ∧ ch.directReading = none

/-- The supply and charge states with their buffers and runs, as a reset leaves them, and the 1 s timer running from it
(R145). -/
def Supply.AtReset (now : Nat) (u : Supply) : Prop :=
  (u.state = .normal ∧ u.samples = [] ∧ u.value = 0 ∧ u.belowLow = none ∧ u.belowCritical = none ∧
    u.aboveLow = none ∧ u.aboveCritical = none) ∧
    (u.charging = false ∧ u.chargeSamples = [] ∧ u.chargeValue = 0 ∧ u.atThreshold = none ∧
      u.belowThreshold = none) ∧
    u.evaluateDue = some (now + 1000)

/-- The working state that both resets give alike: the Demand Table (R23), the circuits (R45, R128), the flasher (R86), the
gauge channels (R105) and the supply (R145). -/
structure State.BlocksAtReset (t : State) : Prop where
  slots : ∀ slot : SlotId, t.dt.slots[slot] = ⟨0, none⟩
  lists : ∀ c : CircuitId, t.dt.lists[c] = []
  resolutions : ∀ c : CircuitId, t.dt.res[c] = ⟨none, 0, 0⟩
  hostCount : t.dt.hostCount = 0
  circuits : ∀ c : CircuitId, (t.cc[c]).AtReset
  requests : t.fu.host = none ∧ ∀ n : BindingId, t.fu.requests[n] = none
  flasher : t.fu.AtReset
  channels : ∀ g : ChannelId, (t.ge[g]).state = (if (t.cfg.gauges[g]).enable then .off else .disabled) ∧
    (t.ge[g]).AtReset ∧ (t.ge[g]).tickDue = none ∧
    (t.ge[g]).convertDue = (if (t.cfg.gauges[g]).enable then some (t.now + 20) else none)
  supply : t.sbu.AtReset t.now ∧ t.sbu.lamp = false
  power : t.sbu.power = .parked ∧ t.sbu.sleepSince = some t.now
  evaluation : t.sbu.last = ⟨false, 0, 0, 0, 0, false⟩ ∧ t.evaluate = false

/-! ### The demand table (R1, R4, R6, R7, R9) -/

/-- Whether two demands hold one internal key (R7). -/
def Demand.sameKey (a b : Demand) : Prop :=
  a.source = b.source ∧ a.source ≠ .host ∧ (a.source.keyedByCircuit = true → a.circuit = b.circuit)

/-- The law of the demand table. -/
structure DemandTable.Lawful (dt : DemandTable) : Prop where
  /-- R1: "A demand appears in exactly one ranked list, that of its own circuit". -/
  listed : ∀ (c : CircuitId) (slot : SlotId),
    slot ∈ dt.lists[c] ↔ ∃ d, (dt.slots[slot]).demand = some d ∧ d.circuit = c
  /-- R1: "and appears there once". -/
  once : ∀ c : CircuitId, (dt.lists[c]).Nodup
  /-- R9: higher priority before lower. -/
  ranked : ∀ c : CircuitId, (dt.lists[c]).Pairwise (fun x y => dt.priorityAt y ≤ dt.priorityAt x)
  /-- R1, R4: a tag from 0 to 255, and from 1 where a demand lives. -/
  tags : ∀ slot : SlotId, (dt.slots[slot]).tag ≤ 255 ∧ ((dt.slots[slot]).demand.isSome = true → 1 ≤ (dt.slots[slot]).tag)
  /-- R1: the host count is the number of slots whose demand has source HOST. -/
  counted : dt.hostCount = (dt.slotsWhere (fun d => decide (d.source = .host))).length
  /-- R6: never more than 20 of them. -/
  quota : dt.hostCount ≤ 20
  /-- R7: one living demand under an internal key. -/
  keys : ∀ (i j : SlotId) (a b : Demand),
    (dt.slots[i]).demand = some a → (dt.slots[j]).demand = some b → a.sameKey b → i = j

/-! ### What a circuit becomes -/

/-- A circuit dark in OFF with a granted level above 0, started (R30, R120): driven at the granted level, the fan at the
start level or the granted level, whichever is smaller; its first measurement 20 ms later (R37). -/
def Circuit.started (k : CircuitCfg) (fan : FanCfg) (now : Nat) (r : Circuit) : Circuit :=
  if k.kind = .motor then
    if r.granted ≤ fan.start then
      { r with state := .running, applied := r.granted, rampDue := none, measureDue := some (now + 20) }
    else { r with state := .ramp, applied := fan.start, rampDue := some (now + 100), measureDue := some (now + 20) }
  else if k.inrushTime = 0 then
    { r with state := .on, applied := r.granted, inrushDue := none, measureDue := some (now + 20) }
  else
    { r with
      state := .starting, applied := r.granted, inrushDue := some (now + k.inrushTime), measureDue := some (now + 20) }

/-- A circuit cut by a trip or a stall, steps 1 to 4 of R33 and R125, with the retry delay the fault brings. -/
def Circuit.faulted (k : CircuitCfg) (now delay : Nat) (r : Circuit) : Circuit :=
  { r with
    state := if r.trips < k.retryLimit then .retryWait else .locked
    applied := 0
    current := 0
    measureDue := none
    inrushDue := none
    rampDue := none
    stall := 0
    confirm := 0
    trips := min 7 (r.trips + 1)
    lastTrip := some now
    quietDue := some (now + 10000)
    retryDue := if r.trips < k.retryLimit then some (now + delay) else none }

/-! ### The flasher (R65 to R84) -/

/-- The circuits that a change of the requests or of the phase from `s` to `t` can reach: those a lane's demand stands on
before or after, and those whose winner follows a lane (R12, R71). -/
def State.SignalTouches (s t : State) (c : CircuitId) : Prop :=
  s.winnerFollows c = true ∨ ∃ (slot : SlotId) (d : Demand) (side : Side),
    ((s.dt.slots[slot]).demand = some d ∨ (t.dt.slots[slot]).demand = some d) ∧ d.source = .lane side ∧ d.circuit = c

/-- What a change of the requests or of the flash phase leaves alone: every block but the flasher, the lanes' demands and
the circuits they stand on. Another circuit keeps its list and its resolution; one of class 0 keeps its record too, but
for the phase sample that an entry into ON opens (R40), and a sheddable one can only be granted anew. -/
structure State.SignalFrame (s t : State) : Prop where
  now : t.now = s.now
  powered : t.powered = s.powered
  cfg : t.cfg = s.cfg
  ibu : t.ibu = s.ibu
  ge : t.ge = s.ge
  cs : t.cs = s.cs
  cuts : t.cuts = s.cuts
  pending : t.pending = s.pending
  order : t.order = s.order ∨ t.order = s.order.tail
  supply : t.sbu = { s.sbu with sleepSince := t.sbu.sleepSince, last := t.sbu.last }
  window : t.lp.window = s.lp.window
  straps : t.lp.straps = s.lp.straps
  status : t.lp.pending = s.lp.pending ∨ t.lp.pending = s.lp.pending ||| Status.shedChanged.mark
  requests : t.fu.requests = s.fu.requests
  wire : t.fu.wireLow = s.fu.wireLow
  hostCount : t.dt.hostCount = s.dt.hostCount
  others : ∀ (slot : SlotId) (d : Demand), (s.dt.slots[slot]).demand = some d → (∀ side, d.source ≠ .lane side) →
    t.dt.slots[slot] = s.dt.slots[slot]
  lampOut : ∀ c : CircuitId, (t.cc[c]).lampOut = (s.cc[c]).lampOut
  resolutions : s.dt.Lawful → ∀ c : CircuitId, ¬ s.SignalTouches t c →
    t.dt.lists[c] = s.dt.lists[c] ∧ t.dt.res[c] = s.dt.res[c]
  essential : s.dt.Lawful → ∀ c : CircuitId, ¬ s.SignalTouches t c → (s.cfg.circuits[c]).cls = 0 →
    t.cc[c] = { s.cc[c] with sampled := (t.cc[c]).sampled }
  sheddable : s.dt.Lawful → ∀ c : CircuitId, ¬ s.SignalTouches t c →
    (t.cc[c]).resolved = (s.cc[c]).resolved ∧ (t.cc[c]).winner = (s.cc[c]).winner ∧
    (t.cc[c]).flashing = (s.cc[c]).flashing ∧ (t.cc[c]).trips = (s.cc[c]).trips ∧
    (t.cc[c]).lastTrip = (s.cc[c]).lastTrip

/-- R71: a lane has demands exactly when a request covers it, and then one FOLLOW-LANE demand on each member, with no hold
and no gating. -/
structure State.LanesStand (s : State) : Prop where
  stand : ∀ (side : Side) (c : CircuitId),
    (∃ (slot : SlotId) (d : Demand), (s.dt.slots[slot]).demand = some d ∧ d.source = .lane side ∧ d.circuit = c) ↔
      (s.fu.covers side = true ∧ c ∈ (s.cfg.lane side).members)
  follow : ∀ (slot : SlotId) (d : Demand) (side : Side), (s.dt.slots[slot]).demand = some d → d.source = .lane side →
    d.intent = .followLane ∧ d.level = none ∧ d.expiry = none ∧ d.gated = false

/-- The length of a phase that starts in `s` from its setting (R74, R79). -/
def State.phaseTime (s : State) (setting : Nat) : Nat := if s.fastFlash then setting / 2 else setting

/-- One end of an ON phase (R69, R76, R82). -/
structure State.EndsOn (s t : State) : Prop where
  frame : s.SignalFrame t
  dark : ∀ c : CircuitId, (s.cfg.circuits[c]).kind.takesDemands = true → t.winnerFollows c = true →
    (t.dt.res[c]).resolved = 0
  counted : (∀ (r : HostRequest) (k : Nat), s.fu.host = some r → r.count = some k → 1 < k) →
    t.dt.slots = s.dt.slots ∧ t.dt.lists = s.dt.lists ∧
    t.fu = { s.fu with
      clock := .off
      phaseFast := s.fastFlash
      phaseDue := some (s.now + s.phaseTime s.cfg.flash.offTime)
      pull := s.fu.synced
      tick := if s.cfg.flash.tick = .follow then false else s.fu.tick
      host := s.fu.host.map (fun r => { r with count := r.count.map (· - 1) }) }
  spent : ∀ (r : HostRequest) (k : Nat), s.fu.host = some r → r.count = some k → k ≤ 1 →
    t.fu.host = none ∧
    ((∃ n : BindingId, s.fu.requests[n] ≠ none) → t.fu.clock = .off ∧
      t.fu.phaseDue = some (s.now + s.phaseTime s.cfg.flash.offTime) ∧ t.fu.pull = s.fu.synced) ∧
    ((∀ n : BindingId, s.fu.requests[n] = none) → t.fu.clock = .idle ∧ t.fu.phaseDue = none ∧ t.fu.pull = false)

/-- One entry into ON (R74, R76, R80, R84). -/
structure State.EntersOn (s t : State) : Prop where
  frame : s.SignalFrame t
  slots : t.dt.slots = s.dt.slots ∧ t.dt.lists = s.dt.lists
  clock : t.fu = { s.fu with
    clock := .on
    phaseFast := s.fastFlash
    phaseDue := some (s.now + s.phaseTime s.cfg.flash.onTime)
    waitDue := none
    pull := false
    tick := if s.cfg.flash.tick = .off then s.fu.tick else true
    tickDue := if s.cfg.flash.tick = .pulse then some (s.now + 20) else s.fu.tickDue }
  lit : ∀ (c : CircuitId) (slot : SlotId) (d : Demand) (side : Side),
    (s.cfg.circuits[c]).kind.takesDemands = true → t.dt.winner c = some (slot, d) → d.intent = .followLane →
    d.source = .lane side → (t.dt.res[c]).resolved = (s.cfg.lane side).level
  samples : ∀ c : CircuitId, (t.cc[c]).sampled = false

/-- No source holds a flash request. -/
def State.NoRequest (s : State) : Prop := s.fu.host = none ∧ ∀ n : BindingId, s.fu.requests[n] = none

/-- The clock is IDLE exactly while no request stands (R75, R77). -/
def State.ClockLawful (s : State) : Prop := s.fu.clock = .idle ↔ s.NoRequest

/-- A clock that has left IDLE at this moment (R75, R81, R83): in WAIT-SYNC where the sync setting is on and the line
reads low, and otherwise at the start of an ON phase, halved in fast flash (R74). -/
structure State.ClockStarted (t : State) : Prop where
  mode : t.fu.synced = t.cfg.flash.sync ∧ t.fu.pull = false
  wait : t.cfg.flash.sync = true → t.fu.wireLow = true →
    t.fu.clock = .waitSync ∧ t.fu.waitDue = some (t.now + 2000) ∧ t.fu.lineRead = false
  on : t.cfg.flash.sync = false ∨ t.fu.wireLow = false →
    t.fu.clock = .on ∧ t.fu.waitDue = none ∧
    t.fu.phaseDue =
      some (t.now + if t.fu.phaseFast then t.cfg.flash.onTime / 2 else t.cfg.flash.onTime)

/-- What the requests that bindings place and give up do to the clock and the lanes (R66, R71, R75, R77, R78). `stays`: the
bindings that the event does not take. -/
structure State.ClockFollows (stays : BindingId → Prop) (s t : State) : Prop where
  /-- A request that stands throughout keeps the clock as it is, and the demands of the lanes it covers. -/
  runs : s.fu.clock ≠ .idle → s.fu.host ≠ none ∨ (∃ n, stays n ∧ s.fu.requests[n] ≠ none) →
    t.fu = { s.fu with requests := t.fu.requests }
  covered : ∀ (slot : SlotId) (d : Demand) (side : Side), (s.dt.slots[slot]).demand = some d → d.source = .lane side →
    d.gated = false → (∃ r, s.fu.host = some r ∧ r.lanes.covers side = true) ∨
      (∃ n lanes, stays n ∧ s.fu.requests[n] = some lanes ∧ lanes.covers side = true) →
    t.dt.slots[slot] = s.dt.slots[slot]
  /-- The first request starts the clock. -/
  starts : s.fu.clock = .idle → s.NoRequest → ¬ t.NoRequest → t.ClockStarted
  /-- With no request left it is IDLE. -/
  ends : s.ClockLawful → t.NoRequest → t.fu.clock = .idle ∧ (s.fu.clock ≠ .idle →
    t.fu.phaseDue = none ∧ t.fu.waitDue = none ∧ t.fu.pull = false ∧ t.fu.abandoned = false)
  /-- Between requests it runs on, or was stopped and started again. -/
  goesOn : s.ClockLawful → s.fu.clock ≠ .idle → ¬ t.NoRequest →
    t.fu = { s.fu with requests := t.fu.requests } ∨ t.ClockStarted
  lanes : s.dt.Lawful → s.LanesStand → (∀ side, (t.cfg.lane side).members.length ≤ 4) → t.LanesStand

/-! ### The bindings (R53 to R56) -/

/-- The held item of a binding after an evaluation that moved its condition to `holds`; `edge`: from FALSE to TRUE. -/
def Action.heldAfter (edge holds : Bool) (held : Held) : Action → Held
  | .whileOn _ => if holds then .demand else .none
  | .flashWhile _ => if holds then .request else .none
  | .toggle _ => if edge then (if held = .none then .demand else .none) else held
  | .timed _ => if edge then .demand else held
  | .flashToggle _ => if edge then (if held = .none then .request else .none) else held

/-- The actions that act at an edge alone (R54 to R56). -/
def Action.atEdge : Action → Bool
  | .whileOn _ => false
  | .flashWhile _ => false
  | .toggle _ => true
  | .timed _ => true
  | .flashToggle _ => true

/-- Every input that a binding's condition reads is known, and for a gated binding the ignition input too (R52). -/
def State.Known (s : State) (b : BindingCfg) : Prop :=
  (s.ibu.inputs[b.primary]).level ≠ none ∧ (∀ i : InputId, b.second = some i → (s.ibu.inputs[i]).level ≠ none) ∧
    (b.gated = true → (s.ibu.inputs[s.cfg.link.ignition]).level ≠ none)

/-- What one evaluation of a binding makes of what is kept for it, against the inputs and the ignition of `t` (R52 to
R56): the condition found and the held item that the action gives, when the evaluation can be made and moves the
condition; otherwise `old` stands. -/
def State.Evaluates (t : State) (b : BindingCfg) (old new : BindingState) : Prop :=
  ∀ (holds : Bool) (found : Condition),
    (holds = true ↔ t.inputActive b.primary = some b.primaryActive ∧
      (∀ i, b.second = some i → t.inputActive i = some b.secondActive) ∧ (b.gated = true → t.ibu.ignition = true)) →
    found = (if holds then .true else .false) →
    (b.enable = true → t.Known b → old.cond ≠ found →
      new = ⟨found, b.action.heldAfter (decide (old.cond = .false) && holds) holds old.held⟩) ∧
    (b.enable = false ∨ ¬ t.Known b ∨ old.cond = found → new = old)

/-- The requests of the bindings follow what the bindings hold (R56). -/
structure State.RequestsFollow (s t : State) : Prop where
  placed : ∀ (n : BindingId) (lanes : LaneSet),
    (s.cfg.bindings[n]).action = .flashWhile lanes ∨ (s.cfg.bindings[n]).action = .flashToggle lanes →
    (t.ibu.bindings[n]).held = .request → (s.ibu.bindings[n]).held ≠ .request → t.fu.requests[n] = some lanes
  retired : ∀ n : BindingId, (s.ibu.bindings[n]).held = .request → (t.ibu.bindings[n]).held = .none →
    t.fu.requests[n] = none

/-! ### The gauge tick (R91 to R98) -/

/-- A channel after stages 6 to 8 on a filter `f` under the supply value, with the duty they give (R99, R112, R115,
R116). -/
def Channel.drivenBy (cfg : LiveConfig) (g : ChannelId) (supply f : Nat) (ch : Channel) : Channel :=
  let heater := curveLookup (cfg.driveCurve g) (displayedOf f)
  let target := targetVoltage (cfg.gauges[g]).stabilised heater
  { ch with
    filter := f
    heater := heater
    target := target
    supply := supply
    undersupply := decide (target ≠ 0 ∧ supply ≤ target)
    duty := dutyOf target supply }

/-- What a tick of a channel leaves alone, and the duty written to its drive circuit (R91, R98). -/
structure State.TickFrame (g : ChannelId) (s t : State) : Prop where
  now : t.now = s.now
  powered : t.powered = s.powered
  cfg : t.cfg = s.cfg
  ibu : t.ibu = s.ibu
  fu : t.fu = s.fu
  cs : t.cs = s.cs
  order : t.order = s.order
  cuts : t.cuts = s.cuts
  pending : t.pending = s.pending
  supply : t.sbu = { s.sbu with sleepSince := t.sbu.sleepSince }
  port : t.lp = { s.lp with pending := t.lp.pending }
  channels : ∀ x : ChannelId, x ≠ g → t.ge[x] = s.ge[x]
  demands : t.dt.slots = s.dt.slots ∧ t.dt.lists = s.dt.lists ∧ t.dt.hostCount = s.dt.hostCount
  resolutions : ∀ c : CircuitId, c ≠ (s.cfg.gauges[g]).drive → t.dt.res[c] = s.dt.res[c]
  circuits : ∀ c : CircuitId, c ≠ (s.cfg.gauges[g]).drive → t.cc[c] = s.cc[c]
  drive : (s.cfg.circuits[(s.cfg.gauges[g]).drive]).kind = .gauge →
    (t.cc[(s.cfg.gauges[g]).drive]).resolved = (t.ge[g]).duty

/-! ### The circuits (R28, R29, R119 to R122) -/

/-- The law of the levels and states of one circuit. -/
structure Circuit.Lawful (k : CircuitCfg) (r : Circuit) : Prop where
  /-- R28: "the applied level never exceeds the granted level". -/
  applied_le : r.applied ≤ r.granted
  /-- R28: "and the granted level never exceeds the resolved level". -/
  granted_le : r.granted ≤ r.resolved
  /-- R28: "The granted level of every class-0 circuit equals its resolved level." -/
  essential : k.cls = 0 → r.granted = r.resolved
  /-- R29: RETRY-WAIT and LOCKED have applied level 0; OFF likewise. -/
  dark : r.state = .off ∨ r.state = .retryWait ∨ r.state = .locked → r.applied = 0
  /-- R29: STARTING and ON are driven at the granted level; they are no states of the fan. -/
  driven : r.state = .starting ∨ r.state = .on → r.applied = r.granted ∧ k.kind ≠ .motor
  /-- R120 to R122: RUNNING is driven at the granted level, RAMP below it; they are states of the fan alone. -/
  turning : r.state = .running → r.applied = r.granted ∧ k.kind = .motor
  climbing : r.state = .ramp → r.applied < r.granted ∧ k.kind = .motor

/-- The law of levels of every circuit. -/
def State.LevelsLawful (s : State) : Prop := ∀ c : CircuitId, Circuit.Lawful s.cfg.circuits[c] s.cc[c]

/-! ### What an applied write brings about (R160)

In each structure `s` stands before the write and `u` after its cascades, under the new tables, before the evaluation
that they may have asked for. Its `frame` names all that moves. -/

/-- What the demands and duties that a write moves do to the circuits (R11, R141), where they can reach `touched` alone. Any
other circuit keeps its list, its resolution and its record, but for the phase sample that an entry into ON opens (R40).
An evaluation is asked for where the winner or the requested level of a class 0 circuit ends changed, and where a
sheddable circuit's resolved level ends higher; and only by a demand on a circuit touched. -/
structure State.DemandsMoved (touched : CircuitId → Prop) (s u : State) : Prop where
  lists : ∀ c : CircuitId, ¬ touched c → u.dt.lists[c] = s.dt.lists[c]
  resolutions : ∀ c : CircuitId, ¬ touched c → u.dt.res[c] = s.dt.res[c]
  records : ∀ c : CircuitId, ¬ touched c → u.cc[c] = { s.cc[c] with sampled := (u.cc[c]).sampled }
  inStep : ∀ c : CircuitId, (s.cfg.circuits[c]).kind.takesDemands = true → s.InStep c → u.InStep c
  essential : ∀ c : CircuitId, (s.cfg.circuits[c]).cls = 0 →
    (u.dt.res[c]).winner ≠ (s.dt.res[c]).winner ∨ (u.dt.res[c]).requested ≠ (s.dt.res[c]).requested →
    u.evaluate = true
  sheddable : ∀ c : CircuitId, (s.cfg.circuits[c]).cls ≠ 0 → (s.cc[c]).resolved < (u.cc[c]).resolved →
    u.evaluate = true
  asked : s.evaluate = false → u.evaluate = true → s.sbu.power ≠ u.sbu.power ∨
    ∃ c : CircuitId, touched c ∧ (s.cfg.circuits[c]).kind.takesDemands = true

/-- The circuits that the bindings satisfying `which` can reach when they are evaluated, edited or turned off (R53 to R60):
the target of such a binding, the circuit its demand stands on, and, where a flash request may come or go, the members
of the lanes and the circuits whose winner follows one. -/
def State.BindingsReach (which : BindingId → Prop) (s u : State) (c : CircuitId) : Prop :=
  ∃ n : BindingId, which n ∧
    ((u.cfg.bindings[n]).action.circuit? = some c ∨
      (∃ (slot : SlotId) (d : Demand), (s.dt.slots[slot]).demand = some d ∧ d.source = .binding n ∧ d.circuit = c) ∨
      ((s.ibu.bindings[n]).held = .request ∨ (u.cfg.bindings[n]).action.circuit? = none) ∧
        (s.winnerFollows c = true ∨ ∃ side, c ∈ (u.cfg.lane side).members))

/-- A CIRCUIT write (R27, R127, R141, R143). That a kind change reopens the phase sample of an ON phase in progress is
log 40. -/
structure State.CircuitsApplied (s u : State) : Prop where
  frame : u = { s with
    cfg := u.cfg, cc := u.cc, lp := { s.lp with pending := u.lp.pending }, evaluate := u.evaluate }
  /-- R141: a change of class, rated current or kind is an evaluation event. -/
  event : u.evaluate = true ↔ ∃ c : CircuitId, (s.cfg.circuits[c]).cls ≠ (u.cfg.circuits[c]).cls ∨
    (s.cfg.circuits[c]).rated ≠ (u.cfg.circuits[c]).rated ∨ (s.cfg.circuits[c]).kind ≠ (u.cfg.circuits[c]).kind
  /-- R27: the other fields are read when they are next needed; on class 0 the rated current too. -/
  stands : ∀ c : CircuitId, (s.cfg.circuits[c]).kind = (u.cfg.circuits[c]).kind →
    (s.cfg.circuits[c]).cls = (u.cfg.circuits[c]).cls →
    (u.cfg.circuits[c]).cls = 0 ∨ (s.cfg.circuits[c]).rated = (u.cfg.circuits[c]).rated → u.cc[c] = s.cc[c]
  /-- R27: a class changed within the same kind and rated current, both sheddable, moves nothing. -/
  reclassed : ∀ c : CircuitId, (s.cfg.circuits[c]).kind = (u.cfg.circuits[c]).kind →
    (s.cfg.circuits[c]).rated = (u.cfg.circuits[c]).rated → (s.cfg.circuits[c]).cls ≠ 0 →
    (u.cfg.circuits[c]).cls ≠ 0 → u.cc[c] = s.cc[c]
  /-- R27, R143: a class changed to 0 grants the resolved level at once and clears the shed flag. -/
  freed : ∀ c : CircuitId, (s.cfg.circuits[c]).kind = (u.cfg.circuits[c]).kind → (s.cfg.circuits[c]).cls ≠ 0 →
    (u.cfg.circuits[c]).cls = 0 → (u.cc[c]).granted = (s.cc[c]).resolved ∧ (u.cc[c]).shed = none
  /-- R27: moved into the sheddable classes, or re-rated there, a circuit loses its grant; its shed flag stands. -/
  withdrawn : ∀ c : CircuitId, (s.cfg.circuits[c]).kind = (u.cfg.circuits[c]).kind → (u.cfg.circuits[c]).cls ≠ 0 →
    (s.cfg.circuits[c]).cls = 0 ∨ (s.cfg.circuits[c]).rated ≠ (u.cfg.circuits[c]).rated →
    (u.cc[c]).granted = 0 ∧ (u.cc[c]).shed = (s.cc[c]).shed ∧
      (Circuit.Lawful s.cfg.circuits[c] s.cc[c] → (u.cc[c]).applied = 0)
  /-- R27: without a kind change these stand. -/
  kept : ∀ c : CircuitId, (s.cfg.circuits[c]).kind = (u.cfg.circuits[c]).kind →
    (u.cc[c]).resolved = (s.cc[c]).resolved ∧ (u.cc[c]).winner = (s.cc[c]).winner ∧
    (u.cc[c]).flashing = (s.cc[c]).flashing ∧ (u.cc[c]).lampOut = (s.cc[c]).lampOut ∧
    (u.cc[c]).trips = (s.cc[c]).trips ∧ (u.cc[c]).lastTrip = (s.cc[c]).lastTrip
  /-- R27, R127: a kind change gives the dynamic part its reset values but for the winner, the mode and the two
  levels, formed for the new kind, and starts a circuit that stands granted (the grant that a sheddable circuit keeps:
  log 33). -/
  remade : ∀ (c : CircuitId) (level granted : Nat) (record : Circuit), 0 < u.cfg.fan.start →
    (s.cfg.circuits[c]).kind ≠ (u.cfg.circuits[c]).kind →
    level = (if (u.cfg.circuits[c]).kind = .motor then u.cfg.fan.mapLevel (s.dt.res[c]).resolved
      else (s.dt.res[c]).resolved) →
    granted = (if (u.cfg.circuits[c]).cls = 0 then level
      else if (s.cfg.circuits[c]).cls = 0 ∨ (s.cfg.circuits[c]).rated ≠ (u.cfg.circuits[c]).rated then 0
      else if (u.cfg.circuits[c]).kind = .motor then min (u.cfg.fan.stepAtMost (s.cc[c]).granted) level
      else min (s.cc[c]).granted level) →
    record = { Circuit.reset with
      resolved := level, granted := granted, winner := (s.cc[c]).winner, flashing := (s.cc[c]).flashing } →
    u.cc[c] = (if granted = 0 then record else record.started u.cfg.circuits[c] u.cfg.fan s.now)
  /-- R140: a change of the shed set raises SHED-CHANGED. -/
  shed : u.isPending .shedChanged = true ↔ s.isPending .shedChanged = true ∨
    ∃ c : CircuitId, (u.cc[c]).shed.isSome ≠ (s.cc[c]).shed.isSome

/-- A FAN write (R127, R142). -/
structure State.StepsApplied (s u : State) : Prop where
  frame : u = { s with
    cfg := u.cfg, cc := u.cc, lp := { s.lp with pending := u.lp.pending }, evaluate := u.evaluate }
  /-- Start level, ramp rate and stall current are read when they are next needed. -/
  stands : s.cfg.fan.steps = u.cfg.fan.steps → s.cfg.fan.count = u.cfg.fan.count →
    u = { s with cfg := u.cfg }
  others : ∀ c : CircuitId, (u.cfg.circuits[c]).kind ≠ .motor → u.cc[c] = s.cc[c]
  /-- New steps: the level is mapped anew; a class 0 fan is granted it at once; a sheddable one is lowered to a step,
  and further to the mapped level where that falls below its grant, which clears its shed flag (log 38); a mapped level
  at or above the old grant, an equal one too, leaves the flag (log 26). -/
  mapped : ∀ (c : CircuitId) (level : Nat),
    s.cfg.fan.steps ≠ u.cfg.fan.steps ∨ s.cfg.fan.count ≠ u.cfg.fan.count →
    (u.cfg.circuits[c]).kind = .motor → Circuit.Lawful s.cfg.circuits[c] s.cc[c] →
    level = u.cfg.fan.mapLevel (s.dt.res[c]).resolved →
    (u.cc[c]).resolved = level ∧ ((u.cfg.circuits[c]).cls = 0 → (u.cc[c]).granted = level) ∧
    ((u.cfg.circuits[c]).cls ≠ 0 → level < (s.cc[c]).granted →
      (u.cc[c]).granted = level ∧ (u.cc[c]).shed = none) ∧
    ((u.cfg.circuits[c]).cls ≠ 0 → (s.cc[c]).granted ≤ level →
      (u.cc[c]).granted = u.cfg.fan.stepAtMost (s.cc[c]).granted ∧
      (0 < level → (u.cc[c]).shed = (s.cc[c]).shed)) ∧
    (u.cc[c]).winner = (s.cc[c]).winner ∧ (u.cc[c]).trips = (s.cc[c]).trips ∧
    (u.cc[c]).lastTrip = (s.cc[c]).lastTrip
  /-- R127, R141: a mapped level that rises on a sheddable fan is an evaluation event. -/
  event : s.cfg.fan.steps ≠ u.cfg.fan.steps ∨ s.cfg.fan.count ≠ u.cfg.fan.count →
    (u.evaluate = true ↔ ∃ c : CircuitId, (u.cfg.circuits[c]).kind = .motor ∧ (u.cfg.circuits[c]).cls ≠ 0 ∧
      (s.cc[c]).resolved < u.cfg.fan.mapLevel (s.dt.res[c]).resolved)

/-- A LANE write (R22, R72). `changed` are the lanes with a new entry that a request covers. -/
structure State.LanesApplied (s u : State) : Prop where
  frame : u = { s with
    cfg := u.cfg, dt := u.dt, cc := u.cc, lp := { s.lp with pending := u.lp.pending }, evaluate := u.evaluate }
  /-- The demands of every other source stand, and those of a lane whose entry stands or that nothing covers. -/
  stands : ∀ (slot : SlotId) (d : Demand), (s.dt.slots[slot]).demand = some d →
    (∀ side, d.source = .lane side → s.cfg.lane side = u.cfg.lane side ∨ s.fu.covers side = false) →
    u.dt.slots[slot] = s.dt.slots[slot]
  /-- After it each covered lane has one demand on each of its members as they now are. The room for them is what
  R6 leaves: eight slots that are empty or a lane's. -/
  members : s.dt.Lawful → s.LanesStand → (∀ side, (s.cfg.lane side).members.length ≤ 4) →
    (∀ side, (u.cfg.lane side).members.length ≤ 4) →
    8 ≤ (allSlots.filter (fun i =>
      ((s.dt.slots[i]).demand).all (fun d => decide (d.source = .lane .left ∨ d.source = .lane .right)))).length →
    u.LanesStand
  /-- Members changed: every demand of the lane is new, under an advanced tag and with the new priority. -/
  remade : ∀ (side : Side) (slot : SlotId) (d : Demand), s.dt.Lawful → s.LanesStand → s.fu.covers side = true →
    (s.cfg.lane side).members ≠ (u.cfg.lane side).members → (u.dt.slots[slot]).demand = some d →
    d.source = .lane side →
    d = ⟨d.circuit, .lane side, .followLane, none, (u.cfg.lane side).priority, none, false⟩ ∧
      (u.dt.slots[slot]).tag = nextTag (s.dt.slots[slot]).tag
  /-- Members kept: each demand keeps slot and handle, and takes a priority that changed. -/
  kept : ∀ (side : Side) (slot : SlotId) (d : Demand), s.dt.Lawful → s.LanesStand → s.fu.covers side = true →
    (s.cfg.lane side).members = (u.cfg.lane side).members → (s.dt.slots[slot]).demand = some d →
    d.source = .lane side → ∃ e, u.dt.slots[slot] = ⟨(s.dt.slots[slot]).tag, some e⟩ ∧ e.circuit = d.circuit ∧
      e.source = .lane side ∧ e.intent = d.intent ∧
      e.priority = (if (s.cfg.lane side).priority = (u.cfg.lane side).priority then d.priority
        else (u.cfg.lane side).priority)
  /-- A new level, members kept, is the requested level of every circuit that a demand of the lane wins, and its
  resolved level while the clock is in ON. -/
  level : ∀ (side : Side) (c : CircuitId) (slot : SlotId) (d : Demand), s.fu.covers side = true →
    (s.cfg.lane side).members = (u.cfg.lane side).members → (s.cfg.lane side).level ≠ (u.cfg.lane side).level →
    (u.cfg.circuits[c]).kind.takesDemands = true → u.dt.winner c = some (slot, d) → d.source = .lane side →
    u.dt.res[c] = u.resolution c
  /-- Only the old and the new members of a covered lane whose entry changed are reached, and circuits that its demands
  win. -/
  moved : s.dt.Lawful → State.DemandsMoved (fun c => ∃ side : Side, s.fu.covers side = true ∧
    s.cfg.lane side ≠ u.cfg.lane side ∧ (c ∈ (s.cfg.lane side).members ∨ c ∈ (u.cfg.lane side).members ∨
      ∃ (slot : SlotId) (d : Demand), s.dt.winner c = some (slot, d) ∧ d.source = .lane side)) s u
  samples : ∀ c : CircuitId, (u.cc[c]).sampled = (s.cc[c]).sampled

/-- A write to GAUGE or to a curve table (R89, R90, R97, R98). -/
structure State.GaugesApplied (s u : State) : Prop where
  frame : u = { s with
    cfg := u.cfg, dt := u.dt, cc := u.cc, ge := u.ge, lp := { s.lp with pending := u.lp.pending }
    evaluate := u.evaluate }
  /-- The demands of every other source stand. -/
  stands : ∀ (slot : SlotId) (d : Demand), (s.dt.slots[slot]).demand = some d → (∀ g, d.source ≠ .warning g) →
    u.dt.slots[slot] = s.dt.slots[slot]
  disabled : ∀ g : ChannelId, (s.cfg.gauges[g]).enable = false → (u.cfg.gauges[g]).enable = false →
    u.ge[g] = s.ge[g]
  /-- Enabled: its buffer empty, its conversions started, SETTLING or OFF by the ignition. -/
  enabled : ∀ g : ChannelId, (s.cfg.gauges[g]).enable = false → (u.cfg.gauges[g]).enable = true →
    u.ge[g] = { Channel.reset true s.now with
      state := if s.ibu.ignition then .settling else .off
      tickDue := if s.ibu.ignition then some (s.now + 100) else none }
  /-- Disabled (R97): everything of it cleared, its pull-up released, 0 written to its old drive circuit. -/
  released : ∀ g : ChannelId, (s.cfg.gauges[g]).enable = true → (u.cfg.gauges[g]).enable = false →
    u.ge[g] = Channel.reset false s.now ∧ u.appliedPullUp g = none ∧
    ((u.cfg.circuits[(s.cfg.gauges[g]).drive]).kind = .gauge →
      (u.cc[(s.cfg.gauges[g]).drive]).resolved = 0)
  /-- Changed while enabled: a new sender input or range empties the buffer, a new warning field ends the warning. -/
  changed : ∀ (g : ChannelId) (sender warning : Bool), (s.cfg.gauges[g]).enable = true →
    (u.cfg.gauges[g]).enable = true →
    (sender = true ↔ (s.cfg.gauges[g]).sender ≠ (u.cfg.gauges[g]).sender ∨
      (s.cfg.gauges[g]).rangeHigh ≠ (u.cfg.gauges[g]).rangeHigh) →
    warning = warningFieldsDiffer s.cfg.gauges[g] u.cfg.gauges[g] →
    u.ge[g] = { s.ge[g] with
      codes := if sender then [] else (s.ge[g]).codes
      convertDue := if sender then some (s.now + 20) else (s.ge[g]).convertDue
      faultRun := if sender then 0 else (s.ge[g]).faultRun
      goodRun := if sender then 0 else (s.ge[g]).goodRun
      warning := if warning then false else (s.ge[g]).warning
      setCount := if warning then 0 else (s.ge[g]).setCount
      clearCount := if warning then 0 else (s.ge[g]).clearCount } ∧
    ((s.cfg.gauges[g]).drive ≠ (u.cfg.gauges[g]).drive →
      (u.cfg.circuits[(s.cfg.gauges[g]).drive]).kind = .gauge →
      (u.cc[(s.cfg.gauges[g]).drive]).resolved = 0)
  /-- The warning demand of a channel that is disabled, or whose warning changed, is retired. -/
  retired : ∀ (g : ChannelId) (slot : SlotId) (d : Demand), (s.cfg.gauges[g]).enable = true →
    (u.cfg.gauges[g]).enable = false ∨ warningFieldsDiffer s.cfg.gauges[g] u.cfg.gauges[g] = true →
    (s.ge[g]).warning = true → s.dt.keyed (.warning g) 0 = some (slot, d) →
    u.dt.slots[slot] = ⟨(s.dt.slots[slot]).tag, none⟩
  /-- R90: an enabled channel pulls its sender input up by its range. -/
  pullUp : ∀ g : ChannelId, (u.cfg.gauges[g]).enable = true →
    ((s.cfg.gauges[g]).enable = true → (s.ge[g]).state ≠ .disabled) →
    u.appliedPullUp g = some (if (u.cfg.gauges[g]).rangeHigh then 1000 else 100)
  /-- Only the old drive circuit of a channel that is disabled or driven elsewhere is reached, and the circuit of a warning
  demand that is retired. -/
  moved : s.dt.Lawful → State.DemandsMoved (fun c => ∃ g : ChannelId, (s.cfg.gauges[g]).enable = true ∧
    (((u.cfg.gauges[g]).enable = false ∨ (s.cfg.gauges[g]).drive ≠ (u.cfg.gauges[g]).drive) ∧
        (s.cfg.gauges[g]).drive = c ∨
      ((u.cfg.gauges[g]).enable = false ∨ warningFieldsDiffer s.cfg.gauges[g] u.cfg.gauges[g] = true) ∧
        ∃ (slot : SlotId) (d : Demand),
          (s.dt.slots[slot]).demand = some d ∧ d.source = .warning g ∧ d.circuit = c)) s u
  samples : ∀ c : CircuitId, (u.cc[c]).sampled = (s.cc[c]).sampled

/-- A BINDING write (R60). -/
structure State.BindingsApplied (s u : State) : Prop where
  frame : u = { s with
    cfg := u.cfg, dt := u.dt, cc := u.cc, fu := u.fu, ibu := { s.ibu with bindings := u.ibu.bindings }
    lp := { s.lp with pending := u.lp.pending }, evaluate := u.evaluate, order := u.order }
  flasher : u.fu.host = s.fu.host ∧ u.fu.wireLow = s.fu.wireLow
  stands : ∀ n : BindingId, s.cfg.bindings[n] = u.cfg.bindings[n] →
    u.ibu.bindings[n] = s.ibu.bindings[n] ∧ u.fu.requests[n] = s.fu.requests[n]
  /-- A changed binding takes a first evaluation, holding nothing. -/
  first : ∀ n : BindingId, s.cfg.bindings[n] ≠ u.cfg.bindings[n] →
    u.Evaluates u.cfg.bindings[n] ⟨.notEvaluated, .none⟩ u.ibu.bindings[n]
  /-- Its old request is retired, and a new one is its new action's. -/
  requests : ∀ n : BindingId, s.cfg.bindings[n] ≠ u.cfg.bindings[n] →
    ((u.ibu.bindings[n]).held ≠ .request → (s.ibu.bindings[n]).held = .request → u.fu.requests[n] = none) ∧
    (∀ lanes, (u.cfg.bindings[n]).action = .flashWhile lanes → (u.ibu.bindings[n]).held = .request →
      u.fu.requests[n] = some lanes)
  /-- The demands of every other source stand, but the lanes', which follow the requests. -/
  others : ∀ (slot : SlotId) (d : Demand), (s.dt.slots[slot]).demand = some d → (∀ side, d.source ≠ .lane side) →
    (∀ n, d.source = .binding n → s.cfg.bindings[n] = u.cfg.bindings[n]) → u.dt.slots[slot] = s.dt.slots[slot]
  /-- Its old demand is retired: one that stands under its key is a WHILE's, with the new entry's fields. -/
  demands : s.dt.Lawful → (∀ (slot : SlotId) (d : Demand) (n : BindingId), (s.dt.slots[slot]).demand = some d →
      d.source = .binding n → (s.ibu.bindings[n]).held = .demand) →
    ∀ (n : BindingId) (slot : SlotId) (d : Demand), s.cfg.bindings[n] ≠ u.cfg.bindings[n] →
      (u.dt.slots[slot]).demand = some d → d.source = .binding n →
      (u.ibu.bindings[n]).held = .demand ∧ (u.cfg.bindings[n]).action = .whileOn d.circuit ∧
      d = ⟨d.circuit, .binding n, .on, some (u.cfg.bindings[n]).level, (u.cfg.bindings[n]).priority, none,
        (u.cfg.bindings[n]).gated⟩
  /-- One changed binding that ends up holding a demand has it in the table. -/
  placed : ∀ (n : BindingId) (c : CircuitId), (∀ m, m ≠ n → s.cfg.bindings[m] = u.cfg.bindings[m]) →
    s.cfg.bindings[n] ≠ u.cfg.bindings[n] → s.dt.freeSlot ≠ none → (u.cfg.bindings[n]).action = .whileOn c →
    (u.ibu.bindings[n]).held = .demand →
    ∃ (slot : SlotId) (d : Demand), (u.dt.slots[slot]).demand = some d ∧ d.source = .binding n ∧ d.circuit = c
  /-- Only what the changed bindings can reach is reached. -/
  moved : s.dt.Lawful → State.DemandsMoved (s.BindingsReach (fun n => s.cfg.bindings[n] ≠ u.cfg.bindings[n]) u) s u
  /-- The flash clock and the lanes follow the requests. -/
  clock : s.ClockFollows (fun n => s.cfg.bindings[n] = u.cfg.bindings[n]) u

/-- The circuits that the charge lamp can reach: its new circuit, and the one its demand stands on (R133). -/
def State.LampReach (s u : State) (c : CircuitId) : Prop :=
  u.cfg.budget.lamp = some c ∨
    ∃ (slot : SlotId) (d : Demand), (s.dt.slots[slot]).demand = some d ∧ d.source = .charge ∧ d.circuit = c

/-- A BUDGET write (R131 to R133, R141, R143; log 34). -/
structure State.BudgetApplied (s u : State) : Prop where
  /-- It ends the runs whose levels it moves, forms the charge lamp anew and is an evaluation event. -/
  frame : ∀ supply charge : Bool,
    (supply = true ↔ s.cfg.budget.system ≠ u.cfg.budget.system ∨ s.cfg.budget.low ≠ u.cfg.budget.low ∨
      s.cfg.budget.critical ≠ u.cfg.budget.critical) →
    (charge = true ↔ s.cfg.budget.chargeThr ≠ u.cfg.budget.chargeThr ∨
      (s.cfg.budget.system ≠ u.cfg.budget.system ∧ u.cfg.budget.chargeThr = 0)) →
    u = { s with
      cfg := u.cfg
      dt := u.dt
      cc := u.cc
      sbu := { s.sbu with
        belowLow := if supply then none else s.sbu.belowLow
        belowCritical := if supply then none else s.sbu.belowCritical
        aboveLow := if supply then none else s.sbu.aboveLow
        aboveCritical := if supply then none else s.sbu.aboveCritical
        atThreshold := if charge then none else s.sbu.atThreshold
        belowThreshold := if charge then none else s.sbu.belowThreshold
        lamp := decide (s.sbu.power = .run ∧ s.sbu.charging = false ∧ u.cfg.budget.lamp ≠ none) }
      lp := { s.lp with pending := u.lp.pending }
      evaluate := true }
  stands : ∀ (slot : SlotId) (d : Demand), (s.dt.slots[slot]).demand = some d → d.source ≠ .charge →
    u.dt.slots[slot] = s.dt.slots[slot]
  placed : ∀ c : CircuitId, s.sbu.power = .run → s.sbu.charging = false → u.cfg.budget.lamp = some c →
    s.dt.freeSlot ≠ none →
    ∃ (slot : SlotId) (d : Demand), (u.dt.slots[slot]).demand = some d ∧ d.source = .charge ∧ d.circuit = c
  retired : ∀ (slot : SlotId) (d : Demand), s.sbu.lamp = true → s.dt.keyed .charge 0 = some (slot, d) →
    s.sbu.power ≠ .run ∨ s.sbu.charging = true ∨ u.cfg.budget.lamp = none →
    u.dt.slots[slot] = ⟨(s.dt.slots[slot]).tag, none⟩
  /-- Only the circuits of the charge lamp, the new one and the one that its demand stands on, are reached. -/
  circuits : s.dt.Lawful → ∀ c : CircuitId, ¬ s.LampReach u c →
    u.dt.lists[c] = s.dt.lists[c] ∧ u.dt.res[c] = s.dt.res[c] ∧ u.cc[c] = s.cc[c]
  inStep : ∀ c : CircuitId, (s.cfg.circuits[c]).kind.takesDemands = true → s.InStep c → u.InStep c

/-- Whether binding n reads an input whose active level differs between `s` and `u`. -/
def State.readsChanged (u s : State) (n : BindingId) : Prop :=
  ∃ i : InputId, s.cfg.link.activeHigh.getLsbD i.val ≠ u.cfg.link.activeHigh.getLsbD i.val ∧
    ((u.cfg.bindings[n]).primary = i ∨ (u.cfg.bindings[n]).second = some i)

/-- The circuits that a change of the ignition state can reach beside those of the gated bindings: the circuits of gated
demands, of the warnings and of the charge lamp, and the drive circuits (R20, R92, R96, R134). -/
def State.IgnitionReach (s u : State) (c : CircuitId) : Prop :=
  s.LampReach u c ∨ (∃ g : ChannelId, (s.cfg.gauges[g]).drive = c) ∨
    ∃ (slot : SlotId) (d : Demand), (s.dt.slots[slot]).demand = some d ∧ d.circuit = c ∧
      (d.gated = true ∨ ∃ g : ChannelId, d.source = .warning g)

/-- What the ignition state does to the power state and the gauge channels (R92, R96, R98, R134). -/
structure State.IgnitionFollows (s t : State) : Prop where
  same : t.ibu.ignition = s.ibu.ignition → t.sbu.power = s.sbu.power ∧ t.sbu.lamp = s.sbu.lamp ∧ t.ge = s.ge
  on : s.ibu.ignition = false → t.ibu.ignition = true → t.sbu.power = .run ∧
    ∀ g : ChannelId, t.ge[g] = (if (s.ge[g]).state = .off then
      { s.ge[g] with state := .settling, filter := 0, faultRun := 0, goodRun := 0, tickDue := some (s.now + 100) }
      else s.ge[g])
  /-- OFF clears the channel but for its buffer and its conversions, and writes 0 to its drive circuit. -/
  off : s.ibu.ignition = true → t.ibu.ignition = false → t.sbu.power = .parked ∧
    ∀ g : ChannelId, t.ge[g] = (if (s.ge[g]).state = .off ∨ (s.ge[g]).state = .disabled then
        { s.ge[g] with warning := (t.ge[g]).warning }
      else { Channel.reset true s.now with codes := (s.ge[g]).codes, convertDue := (s.ge[g]).convertDue }) ∧
      ((s.ge[g]).state ≠ .off → (s.ge[g]).state ≠ .disabled →
        (s.cfg.circuits[(s.cfg.gauges[g]).drive]).kind = .gauge → (t.cc[(s.cfg.gauges[g]).drive]).resolved = 0)

/-- A LINK write (R61, R20, R58, R59, R92, R96, R134; that R58 reaches a gated binding through an ignition input that is
UNKNOWN is log 22). -/
structure State.LinkApplied (s u : State) : Prop where
  frame : u = { s with
    cfg := u.cfg, dt := u.dt, cc := u.cc, fu := u.fu, ge := u.ge
    ibu := { s.ibu with ignition := u.ibu.ignition, bindings := u.ibu.bindings }
    sbu := { s.sbu with power := u.sbu.power, lamp := u.sbu.lamp }
    lp := { s.lp with pending := u.lp.pending }, evaluate := u.evaluate, order := u.order }
  flasher : u.fu.host = s.fu.host ∧ u.fu.wireLow = s.fu.wireLow
  requests : s.RequestsFollow u
  /-- The address base, the general call, the debounce count and the mask are read where they are used. -/
  stands : s.cfg.link.activeHigh = u.cfg.link.activeHigh → s.cfg.link.ignition = u.cfg.link.ignition →
    u = { s with cfg := u.cfg }
  /-- Otherwise the ignition state is formed anew, and its change acts on the power state and the channels. -/
  ignition : s.cfg.link.activeHigh ≠ u.cfg.link.activeHigh ∨ s.cfg.link.ignition ≠ u.cfg.link.ignition →
    (u.ibu.ignition = true ↔ u.inputActive u.cfg.link.ignition = some true)
  follows : s.IgnitionFollows u
  /-- An enabled binding that reads an input whose active level changed is edited: a first evaluation. -/
  edited : ∀ n : BindingId, (u.cfg.bindings[n]).enable = true → u.readsChanged s n →
    u.Evaluates u.cfg.bindings[n] ⟨.notEvaluated, .none⟩ u.ibu.bindings[n]
  /-- Another binding stands, unless it is gated and the ignition state changed. -/
  others : ∀ n : BindingId, ¬ ((u.cfg.bindings[n]).enable = true ∧ u.readsChanged s n) →
    (u.ibu.ignition = s.ibu.ignition → u.ibu.bindings[n] = s.ibu.bindings[n]) ∧
    (s.ibu.ignition = false → u.ibu.ignition = true →
      ((u.cfg.bindings[n]).gated = false → u.ibu.bindings[n] = s.ibu.bindings[n]) ∧
      ((u.cfg.bindings[n]).gated = true →
        u.Evaluates u.cfg.bindings[n] s.ibu.bindings[n] u.ibu.bindings[n])) ∧
    (s.ibu.ignition = true → u.ibu.ignition = false →
      ((u.cfg.bindings[n]).gated = true → (u.cfg.bindings[n]).enable = true →
        (s.ibu.bindings[n]).cond ≠ .notEvaluated ∨ u.Known u.cfg.bindings[n] →
        u.ibu.bindings[n] = ⟨.false, .none⟩) ∧
      ((u.cfg.bindings[n]).gated = false → (∀ (slot : SlotId) (d : Demand),
          (s.dt.slots[slot]).demand = some d → d.source = .binding n → d.gated = false) →
        u.ibu.bindings[n] = s.ibu.bindings[n]))
  /-- Only what the edited bindings can reach is reached, and with a new ignition state what the gated ones and the
  ignition can. -/
  moved : s.dt.Lawful → State.DemandsMoved (fun c =>
    s.BindingsReach (fun n => (u.cfg.bindings[n]).enable = true ∧ u.readsChanged s n) u c ∨
    u.ibu.ignition ≠ s.ibu.ignition ∧
      (s.BindingsReach (fun n => (u.cfg.bindings[n]).gated = true) u c ∨ s.IgnitionReach u c)) s u
  /-- A change of the power state is an evaluation event (R141). -/
  powered : s.sbu.power ≠ u.sbu.power → u.evaluate = true
  /-- The flash clock and the lanes follow the requests. -/
  clock : s.ClockFollows (fun n => ¬ ((u.cfg.bindings[n]).enable = true ∧ u.readsChanged s n) ∧
    u.ibu.bindings[n] = s.ibu.bindings[n]) u

/-! ### What a sample of the inputs brings about (R47, R52 to R59) -/

/-- A binding that acts at a sample (R53 to R56): its condition comes to TRUE, and for an action at the edge from FALSE. -/
def State.ActsAt (s t : State) (n : BindingId) : Prop :=
  (t.ibu.bindings[n]).cond = .true ∧ (s.ibu.bindings[n]).cond ≠ .true ∧
    ((s.cfg.bindings[n]).action.atEdge = true → (s.ibu.bindings[n]).cond = .false)

/-- The circuits that a sample can reach: those of the bindings it moves, and with a new ignition state those of the
ignition. -/
def State.SampleReach (s t : State) (c : CircuitId) : Prop :=
  s.BindingsReach (fun n => t.ibu.bindings[n] ≠ s.ibu.bindings[n]) t c ∨
    t.ibu.ignition ≠ s.ibu.ignition ∧ s.IgnitionReach t c

/-- The time at which the hold of a demand that a binding places now runs out (R53, R55): TIMED alone has one. -/
def BindingCfg.holdEnd (b : BindingCfg) (now : Nat) : Option Nat :=
  match b.action with
  | .timed _ => some (now + 100 * b.hold)
  | .whileOn _ => none
  | .toggle _ => none
  | .flashWhile _ => none
  | .flashToggle _ => none

/-- What a sample that changes a debounced level does to the demands, the circuits and the clock. -/
structure State.SampleTaken (s t : State) : Prop where
  hostCount : t.dt.hostCount = (if s.ibu.ignition = true ∧ t.ibu.ignition = false then
    s.dt.hostCount - (s.dt.slotsWhere (fun d => decide (d.source = .host) && d.gated)).length else s.dt.hostCount)
  power : t.sbu = { s.sbu with
    power := t.sbu.power, lamp := t.sbu.lamp, sleepSince := t.sbu.sleepSince, last := t.sbu.last }
  ignition : s.IgnitionFollows t
  status : t.lp.pending = s.lp.pending ∨ t.lp.pending = s.lp.pending ||| Status.shedChanged.mark
  /-- At ignition kept the demands of every source but the lanes and the bindings moved stand; at a change of it those of
  the host and of the lamp test that R20 does not take. -/
  others : ∀ (slot : SlotId) (d : Demand), (s.dt.slots[slot]).demand = some d → (∀ side, d.source ≠ .lane side) →
    (∀ n, d.source = .binding n → t.ibu.bindings[n] = s.ibu.bindings[n]) →
    t.ibu.ignition = s.ibu.ignition ∨
      ((d.source = .host ∨ d.source = .test) ∧ (t.ibu.ignition = true ∨ d.gated = false)) →
    t.dt.slots[slot] = s.dt.slots[slot]
  /-- A circuit that is not reached keeps its list, its resolution and its record, but for what an evaluation grants a
  sheddable one and the phase sample that an entry into ON opens (R40). -/
  untouched : s.dt.Lawful → ∀ c : CircuitId, ¬ s.SampleReach t c →
    t.dt.lists[c] = s.dt.lists[c] ∧ t.dt.res[c] = s.dt.res[c] ∧
    ((s.cfg.circuits[c]).cls = 0 → t.cc[c] = { s.cc[c] with sampled := (t.cc[c]).sampled }) ∧
    (t.cc[c]).resolved = (s.cc[c]).resolved ∧ (t.cc[c]).winner = (s.cc[c]).winner ∧
    (t.cc[c]).flashing = (s.cc[c]).flashing ∧ (t.cc[c]).lampOut = (s.cc[c]).lampOut ∧
    (t.cc[c]).trips = (s.cc[c]).trips ∧ (t.cc[c]).lastTrip = (s.cc[c]).lastTrip
  /-- R11: a circuit that stood resolved stands resolved, and in step. -/
  resolved : ∀ c : CircuitId, s.dt.Lawful → (s.cfg.circuits[c]).kind.takesDemands = true →
    s.dt.res[c] = s.resolution c → t.dt.res[c] = t.resolution c
  inStep : ∀ c : CircuitId, (s.cfg.circuits[c]).kind.takesDemands = true → s.InStep c → t.InStep c
  /-- R53, R54: a binding that acts and holds a demand then has placed it, in the record of R53, under an advanced tag. -/
  placed : ∀ (n : BindingId) (c : CircuitId) (b : BindingCfg), s.dt.Lawful → s.LanesStand →
    (∀ side, (s.cfg.lane side).members.length ≤ 4) → b = s.cfg.bindings[n] →
    b.action.circuit? = some c → s.ActsAt t n → (t.ibu.bindings[n]).held = .demand → s.dt.keyed (.binding n) c = none →
    ∃ slot : SlotId,
      t.dt.slots[slot] = ⟨nextTag (s.dt.slots[slot]).tag,
        some ⟨c, .binding n, .on, some b.level, b.priority, b.holdEnd s.now, b.gated⟩⟩ ∧
      slot ∈ t.dt.lists[c] ∧ ((s.cfg.circuits[c]).kind.takesDemands = true → t.dt.res[c] = t.resolution c) ∧
      (t.ibu.ignition = s.ibu.ignition → (∀ m, m ≠ n → t.ibu.bindings[m] = s.ibu.bindings[m]) →
        s.dt.Enters b.priority slot s.dt.lists[c] t.dt.lists[c])
  /-- R55: one that stands there already is refreshed in its slot, under its handle. -/
  refreshed : ∀ (n : BindingId) (c : CircuitId) (b : BindingCfg) (slot : SlotId) (d : Demand), s.dt.Lawful →
    b = s.cfg.bindings[n] → b.action.circuit? = some c → s.ActsAt t n → (t.ibu.bindings[n]).held = .demand →
    (s.dt.slots[slot]).demand = some d → d.source = .binding n → d.circuit = c → d.gated = b.gated →
    t.dt.slots[slot] = ⟨(s.dt.slots[slot]).tag,
      some { d with level := some b.level, priority := b.priority, expiry := b.holdEnd s.now }⟩ ∧
    slot ∈ t.dt.lists[c] ∧ ((s.cfg.circuits[c]).kind.takesDemands = true → t.dt.res[c] = t.resolution c)
  /-- R53, R54, R58: a binding that gives its demand up has none. Its slot is emptied with its tag kept, or taken again by
  another demand of the sample. -/
  retired : ∀ (n : BindingId) (slot : SlotId) (d : Demand), s.dt.Lawful → s.LanesStand →
    (s.ibu.bindings[n]).held = .demand → (t.ibu.bindings[n]).held = .none →
    (s.dt.slots[slot]).demand = some d → d.source = .binding n →
    (∀ (i : SlotId) (e : Demand), (t.dt.slots[i]).demand = some e → e.source ≠ .binding n) ∧
    (t.dt.slots[slot] = ⟨(s.dt.slots[slot]).tag, none⟩ ∨
      ∃ e, t.dt.slots[slot] = ⟨nextTag (s.dt.slots[slot]).tag, some e⟩) ∧
    ((s.cfg.circuits[d.circuit]).kind.takesDemands = true → t.dt.res[d.circuit] = t.resolution d.circuit) ∧
    (t.ibu.ignition = s.ibu.ignition → (∀ m, m ≠ n → t.ibu.bindings[m] = s.ibu.bindings[m]) →
      t.dt.slots[slot] = ⟨(s.dt.slots[slot]).tag, none⟩ ∧
      t.dt.lists[d.circuit] = (s.dt.lists[d.circuit]).filter (fun x => x ≠ slot))
  /-- A binding that does not act and holds its demand throughout keeps it as it is. -/
  stands : ∀ (n : BindingId) (slot : SlotId) (d : Demand), s.dt.Lawful → ¬ s.ActsAt t n →
    (s.ibu.bindings[n]).held = .demand → (t.ibu.bindings[n]).held = .demand →
    (s.dt.slots[slot]).demand = some d → d.source = .binding n → t.dt.slots[slot] = s.dt.slots[slot]
  /-- A binding that the sample does not move keeps its request, and with no request moved the flasher stands. -/
  requests : ∀ n : BindingId, t.ibu.bindings[n] = s.ibu.bindings[n] → t.fu.requests[n] = s.fu.requests[n]
  still : t.fu.requests = s.fu.requests → (∀ n : BindingId, t.ibu.bindings[n] ≠ s.ibu.bindings[n] →
    (s.cfg.bindings[n]).action.circuit? ≠ none ∧ (s.ibu.bindings[n]).held ≠ .request) → t.fu = s.fu
  clock : s.ClockFollows (fun n => t.ibu.bindings[n] = s.ibu.bindings[n]) t

/-! ### What a software reset leaves (R64, R175) -/

/-- A demand after a software reset: a WHILE binding's, a covered lane's or the charge lamp's, each with the fields of its
rule (R53, R71, R133). -/
def State.RestartDemand (t : State) (d : Demand) : Prop :=
  (∃ (n : BindingId) (b : BindingCfg), b = t.cfg.bindings[n] ∧ b.action = .whileOn d.circuit ∧
    (t.ibu.bindings[n]).held = .demand ∧
    d = ⟨d.circuit, .binding n, .on, some b.level, b.priority, none, b.gated⟩) ∨
  (∃ side : Side, t.fu.covers side = true ∧ d.circuit ∈ (t.cfg.lane side).members ∧
    d = ⟨d.circuit, .lane side, .followLane, none, (t.cfg.lane side).priority, none, false⟩) ∨
  t.sbu.lamp = true ∧ t.cfg.budget.lamp = some d.circuit ∧ d = ⟨d.circuit, .charge, .on, some 1000, 10, none, true⟩

/-- The part after a software reset: every block at its reset values (R23, R45, R64, R86, R105, R145) but for what the
ignition state and the bindings, taken from the kept levels, then bring about. -/
structure State.Restarted (t : State) : Prop where
  /-- Every tag was 0, so a demand placed since stands under tag 1. -/
  slots : ∀ slot : SlotId, t.dt.slots[slot] = ⟨0, none⟩ ∨ ∃ d, t.dt.slots[slot] = ⟨1, some d⟩ ∧ t.RestartDemand d
  table : t.dt.Lawful
  resolved : ∀ c : CircuitId,
    t.dt.res[c] = (if (t.cfg.circuits[c]).kind.takesDemands = true then t.resolution c else ⟨none, 0, 0⟩) ∧ t.InStep c
  /-- A lock, a lamp-out flag or a trip history is not carried over; a circuit with no demand stands at its reset values. -/
  circuits : ∀ c : CircuitId, (t.cc[c]).state ≠ .retryWait ∧ (t.cc[c]).state ≠ .locked ∧ (t.cc[c]).current = 0 ∧
    (t.cc[c]).lampOut = false ∧ (t.cc[c]).confirm = 0 ∧ (t.cc[c]).trips = 0 ∧ (t.cc[c]).lastTrip = none ∧
    (t.cc[c]).stall = 0 ∧ (t.cc[c]).retryDue = none ∧ (t.cc[c]).quietDue = none ∧
    (t.dt.lists[c] = [] → (t.cc[c]).AtReset)
  bindings : ∀ n : BindingId, t.Evaluates t.cfg.bindings[n] ⟨.notEvaluated, .none⟩ t.ibu.bindings[n]
  /-- A WHILE binding that comes to TRUE has its demand, a FLASH-WHILE one its request, and nothing else is held. -/
  held : ∀ n : BindingId,
    ((t.ibu.bindings[n]).held = .demand →
      ∃ (slot : SlotId) (d : Demand), (t.dt.slots[slot]).demand = some d ∧ d.source = .binding n) ∧
    (∀ lanes, t.fu.requests[n] = some lanes ↔
      (t.cfg.bindings[n]).action = .flashWhile lanes ∧ (t.ibu.bindings[n]).held = .request)
  sampling : t.ibu.sampleDue = some (t.now + 5)
  lanes : (∀ side, (t.cfg.lane side).members.length ≤ 4) → t.LanesStand
  flasher : t.fu.host = none ∧ (t.NoRequest → t.fu.AtReset) ∧ (¬ t.NoRequest → t.ClockStarted)
  /-- A channel out of OFF is SETTLING, its filter and counts at 0 and its first tick 100 ms later (R92). -/
  channels : ∀ g : ChannelId, (t.ge[g]).AtReset ∧
    (t.ge[g]).state = (if (t.cfg.gauges[g]).enable then (if t.ibu.ignition then .settling else .off) else .disabled) ∧
    (t.ge[g]).tickDue = (if (t.cfg.gauges[g]).enable = true ∧ t.ibu.ignition = true then some (t.now + 100) else none) ∧
    (t.ge[g]).convertDue = (if (t.cfg.gauges[g]).enable then some (t.now + 20) else none)
  supply : t.sbu.AtReset t.now ∧ t.sbu.sampleDue = some (t.now + 20) ∧
    t.sbu.power = (if t.ibu.ignition then .run else .parked) ∧ t.sbu.sleepSince = t.sleepAtZero
  /-- R133: NOT-CHARGING after the reset, so in RUN the charge lamp stands. -/
  lamp : t.sbu.lamp = decide (t.sbu.power = .run ∧ t.cfg.budget.lamp ≠ none) ∧ (t.sbu.lamp = true →
    ∃ (slot : SlotId) (d : Demand), (t.dt.slots[slot]).demand = some d ∧ d.source = .charge)
  /-- The change to RUN is an evaluation event (R141); with no evaluation the record is empty and no circuit is shed. -/
  evaluation : (t.ibu.ignition = true → t.sbu.last.made = true) ∧
    (t.sbu.last.made = false → t.sbu.last = ⟨false, 0, 0, 0, 0, false⟩ ∧ ∀ c : CircuitId, (t.cc[c]).shed = none)
  /-- No condition stands but SHED-CHANGED, for a circuit that the evaluation holds back. -/
  status : (t.isPending .shedChanged = true ↔ ∃ c : CircuitId, (t.cc[c]).shed ≠ none) ∧
    (t.lp.pending = 0 ∨ t.lp.pending = Status.shedChanged.mark)

/-! ### What the reads show (R166) -/

/-- A number that shows a set: bit n for member n, and no other bit. -/
def showsSet {n : Nat} (shown : Nat) (which : Fin n → Bool) : Prop :=
  shown < 2 ^ n ∧ ∀ i : Fin n, shown.testBit i.val = which i

/-- The byte of a lane set. -/
def LaneSet.shown : LaneSet → Byte
  | .left => 0
  | .right => 1
  | .both => 2

/-- The data of LIST-CIRCUIT: count, handles from the head, the two levels. -/
def State.ListShown (s : State) (c : CircuitId) (bytes : List Byte) : Prop :=
  bytes = [byteOf (s.dt.lists[c]).length] ++
    (s.dt.lists[c]).flatMap (fun slot => le16 (slot.val * 256 + (s.dt.slots[slot]).tag)) ++
    le16 (s.dt.res[c]).resolved ++ le16 (s.dt.res[c]).requested

/-- One CIRCUIT entry. -/
def CircuitCfg.Shown (k : CircuitCfg) (bytes : List Byte) : Prop :=
  ∃ kind test : Nat,
    bytes = le16 k.rated ++ le16 k.trip ++
      [byteOf kind, byteOf k.cls, byteOf k.inrushFactor, byteOf k.inrushTime, byteOf k.lampOut, byteOf k.retryLimit,
        byteOf test, 0] ∧
    kind = (match k.kind with
      | .none => 0
      | .filament => 1
      | .led => 2
      | .motor => 3
      | .gauge => 4) ∧
    test = (if k.lampTest then 1 else 0)

/-- One CIRCUIT-STATE entry. -/
def Circuit.Shown (now : Nat) (r : Circuit) (bytes : List Byte) : Prop :=
  ∃ state flags since : Nat,
    bytes = [byteOf state, byteOf flags] ++ le16 r.resolved ++ le16 r.granted ++ le16 r.applied ++
      le16 (r.winner.getD 0) ++ le16 r.current ++ [byteOf r.confirm, byteOf r.trips] ++ le16 since ++
      [byteOf r.stall] ∧
    state = (match r.state with
      | .off => 0
      | .starting => 1
      | .on => 2
      | .retryWait => 3
      | .locked => 4
      | .ramp => 5
      | .running => 6) ∧
    showsSet flags ![r.flashing, r.lampOut, r.shed.isSome] ∧
    (r.lastTrip = none → since = 65535) ∧
    (∀ a, r.lastTrip = some a →
      ((now - a) / 100 ≤ 65534 → since = (now - a) / 100) ∧ (65534 ≤ (now - a) / 100 → since = 65534))

/-- The data of READ-CIRCUIT: the CIRCUIT entry, then the circuit-state entry. -/
def State.CircuitShown (s : State) (c : CircuitId) (bytes : List Byte) : Prop :=
  ∃ entry state : List Byte, bytes = entry ++ state ∧ (s.cfg.circuits[c]).Shown entry ∧ (s.cc[c]).Shown s.now state

/-- The data of READ-GAUGE; the number of codes is the one that the last tick averaged (log 14). -/
def State.GaugeShown (s : State) (g : ChannelId) (bytes : List Byte) : Prop :=
  ∃ state flags handle : Nat,
    bytes = [byteOf state, byteOf (s.ge[g]).averaged] ++ le16 (s.ge[g]).code ++
      le16 ((s.ge[g]).resistance.getD 0xFFFF) ++ le16 ((s.ge[g]).reading.getD 0xFFFF) ++ le16 (s.ge[g]).filter ++
      le16 (displayedOf (s.ge[g]).filter) ++ le16 (s.ge[g]).heater ++ le16 (s.ge[g]).target ++
      le16 (s.ge[g]).supply ++ le16 (s.ge[g]).duty ++
      [byteOf (s.ge[g]).faultRun, byteOf (s.ge[g]).goodRun, byteOf (s.ge[g]).hold, byteOf flags] ++ le16 handle ++
      [byteOf (s.ge[g]).setCount, byteOf (s.ge[g]).clearCount] ++ le16 ((s.ge[g]).directReading.getD 0) ∧
    state = (match (s.ge[g]).state with
      | .disabled => 0
      | .off => 1
      | .settling => 2
      | .tracking => 3
      | .faultHold => 4
      | .rest => 5
      | .direct => 6) ∧
    showsSet flags ![(s.ge[g]).warning, (s.ge[g]).undersupply, (s.ge[g]).directReading.isSome] ∧
    ((s.ge[g]).warning = false → handle = 0) ∧
    (∀ (slot : SlotId) (d : Demand), (s.ge[g]).warning = true → s.dt.keyed (.warning g) 0 = some (slot, d) →
      handle = slot.val * 256 + (s.dt.slots[slot]).tag)

/-- The data of READ-SUPPLY; the sleep timer as it stood before the frame (log 13). -/
def State.SupplyShown (s : State) (bytes : List Byte) : Prop :=
  ∃ state charging power sleep flags shed handle : Nat,
    bytes = le16 s.sbu.value ++ [byteOf state] ++ le16 s.sbu.chargeValue ++ [byteOf charging, byteOf power] ++
      le16 sleep ++ le16 s.sbu.last.allowance ++ le16 s.sbu.last.essential ++ le16 s.sbu.last.sheddable ++
      le16 s.sbu.last.total ++ [byteOf flags] ++ le16 shed ++ le16 handle ∧
    state = (match s.sbu.state with
      | .normal => 0
      | .low => 1
      | .critical => 2) ∧
    charging = (if s.sbu.charging then 1 else 0) ∧
    power = (match s.sbu.power with
      | .run => 0
      | .parked => 1
      | .asleep => 2) ∧
    (s.sbu.sleepSince = none → sleep = 0) ∧ (∀ a, s.sbu.sleepSince = some a → sleep = (s.now - a) / 100) ∧
    showsSet flags ![s.sbu.last.overload, s.sbu.last.made, s.sbu.lamp] ∧
    showsSet shed (fun c : CircuitId => (s.cc[c]).shed.isSome) ∧
    (s.sbu.lamp = false → handle = 0) ∧
    (∀ (slot : SlotId) (d : Demand), s.sbu.lamp = true → s.dt.keyed .charge 0 = some (slot, d) →
      handle = slot.val * 256 + (s.dt.slots[slot]).tag)

/-- The data of READ-STATUS. The requests: the host's first, then the bindings' in ascending order with no gaps,
0xFF where there is none. -/
def State.StatusShown (s : State) (bytes : List Byte) : Prop :=
  ∃ (attention known active ignition clock flags count store lock : Nat) (bindings host others : List Byte),
    bytes = le16 s.lp.pending.toNat ++ le16 s.cfg.link.mask.toNat ++ [byteOf attention] ++ le16 known ++ le16 active ++
      [byteOf ignition] ++ bindings ++ [byteOf clock, byteOf flags, byteOf count] ++ host ++ others ++
      [byteOf store, byteOf lock] ∧
    attention = (if s.attentionLow then 1 else 0) ∧
    showsSet known (fun i : InputId => (s.ibu.inputs[i]).level.isSome) ∧
    showsSet active (fun i : InputId =>
      decide ((s.ibu.inputs[i]).level = some (s.cfg.link.activeHigh.getLsbD i.val))) ∧
    ignition = (if s.ibu.ignition then 1 else 0) ∧
    bindings.length = 16 ∧
    (∀ n : BindingId, bindings[n.val]? = some (byteOf (
      (match (s.ibu.bindings[n]).cond with
        | .notEvaluated => 0
        | .false => 1
        | .true => 2) +
      (match (s.ibu.bindings[n]).held with
        | .none => 0
        | .demand => 16
        | .request => 32)))) ∧
    clock = (match s.fu.clock with
      | .idle => 0
      | .on => 1
      | .off => 2
      | .waitSync => 3) ∧
    showsSet flags ![s.fu.synced, s.fu.abandoned, s.fu.phaseFast, s.fu.covers .left, s.fu.covers .right,
      s.fu.lineRead] ∧
    count = (if s.fu.host = none then 0 else 1) +
      (allBindings.filter (fun n : BindingId => (s.fu.requests[n]).isSome)).length ∧
    (s.fu.host = none → host = [0xFF, 0xFF, 0xFF]) ∧
    (∀ r, s.fu.host = some r → host = [0x00, r.lanes.shown, byteOf (r.count.getD 0xFF)]) ∧
    others = (allBindings.flatMap (fun n : BindingId => match s.fu.requests[n] with
      | none => []
      | some lanes => [byteOf (0x10 + n.val), lanes.shown, 0xFF]) ++ List.replicate 21 0xFF).take 21 ∧
    store = (match s.cs.state with
      | .idle => 0
      | .saving _ => 1
      | .erasing _ => 2) ∧
    lock = (if s.cs.lock then 1 else 0)

/-- The data of READ-RESULT: command code, result code, handle. -/
def LastResult.Shown (l : LastResult) (bytes : List Byte) : Prop :=
  bytes = [l.code, match l.result with
    | .ok => 0x00
    | .truncated => 0x01
    | .busy => 0x02
    | .checkFailed => 0x03
    | .badCommand => 0x04
    | .badParameter => 0x05
    | .noSuchDemand => 0x06
    | .notOwner => 0x07
    | .quotaFull => 0x08
    | .wrongKind => 0x09
    | .wrongState => 0x0A
    | .invalidTable => 0x0B
    | .noWindow => 0x0C
    | .storeLocked => 0x0D] ++ le16 l.handle

/-- One BINDING entry: the second input absent as 15. -/
def BindingCfg.Shown (b : BindingCfg) (bytes : List Byte) : Prop :=
  ∃ (flags inputs : Nat) (action target : Byte),
    bytes = [byteOf flags, byteOf inputs, action, target] ++ le16 b.level ++ le16 b.hold ∧
    showsSet (flags % 16) ![b.enable, b.gated, b.primaryActive, b.secondActive] ∧ flags / 16 = b.priority ∧
    inputs % 16 = b.primary.val ∧ (b.second = none → inputs / 16 = 15) ∧
    (∀ i, b.second = some i → inputs / 16 = i.val) ∧
    (∀ c, b.action = .whileOn c → action = 0 ∧ target = byteOf c.val) ∧
    (∀ c, b.action = .toggle c → action = 1 ∧ target = byteOf c.val) ∧
    (∀ c, b.action = .timed c → action = 2 ∧ target = byteOf c.val) ∧
    (∀ l, b.action = .flashWhile l → action = 3 ∧ target = l.shown) ∧
    (∀ l, b.action = .flashToggle l → action = 4 ∧ target = l.shown)

/-- One LANE entry: members beyond the count as 0xFF. -/
def LaneCfg.Shown (l : LaneCfg) (bytes : List Byte) : Prop :=
  ∃ members : List Byte, bytes = [byteOf l.members.length] ++ members ++ le16 l.level ++ [byteOf l.priority] ∧
    members.length = 4 ∧ ∀ j : Nat, j < 4 →
      (∀ c, l.members[j]? = some c → members[j]? = some (byteOf c.val)) ∧
      (l.members[j]? = none → members[j]? = some 0xFF)

/-- The FLASH entry. -/
def FlashCfg.Shown (f : FlashCfg) (bytes : List Byte) : Prop :=
  ∃ tick : Byte,
    bytes = le16 f.onTime ++ le16 f.offTime ++ [if f.fast then 1 else 0, if f.sync then 1 else 0, tick] ∧
    tick = (match f.tick with
      | .off => 0
      | .pulse => 1
      | .follow => 2)

/-- One GAUGE entry. -/
def GaugeCfg.Shown (g : GaugeCfg) (bytes : List Byte) : Prop :=
  ∃ flags : Nat,
    bytes = [byteOf flags, byteOf g.sender.val, byteOf g.drive.val] ++ le16 g.openThr ++
      [byteOf g.shortThr, byteOf g.damping] ++ le16 g.stabilised ++
      [byteOf g.holdTime, byteOf g.senderPoints, byteOf g.drivePoints] ++ le16 g.warnThr ++
      [byteOf g.hysteresis, byteOf g.warnDelay, byteOf g.warnCircuit.val, byteOf g.warnPriority] ∧
    showsSet flags ![g.enable, g.rangeHigh, g.warnEnable, g.warnAbove]

/-- The FAN entry. -/
def FanCfg.Shown (f : FanCfg) (bytes : List Byte) : Prop :=
  bytes = [byteOf f.count] ++ le16 f.steps[0] ++ le16 f.steps[1] ++ le16 f.steps[2] ++ le16 f.steps[3] ++
    le16 f.start ++ le16 f.rate ++ le16 f.stall

/-- The BUDGET entry: no charge lamp as 0xFF. -/
def BudgetCfg.Shown (b : BudgetCfg) (bytes : List Byte) : Prop :=
  ∃ system lamp : Nat,
    bytes = [byteOf system] ++ le16 b.dynamo ++ le16 b.battery ++ le16 b.park ++ le16 b.low ++ le16 b.critical ++
      le16 b.derate ++ le16 b.margin ++ le16 b.delay ++ le16 b.chargeThr ++ [byteOf lamp] ∧
    (b.system = .six → system = 6) ∧ (b.system = .twelve → system = 12) ∧
    (b.lamp = none → lamp = 255) ∧ (∀ c, b.lamp = some c → lamp = c.val)

/-- The LINK entry. -/
def LinkCfg.Shown (l : LinkCfg) (bytes : List Byte) : Prop :=
  ∃ active mask : Nat,
    bytes = le16 active ++ [byteOf l.debounce, byteOf l.ignition.val, byteOf l.base, if l.generalCall then 1 else 0] ++
      le16 mask ∧
    showsSet active (fun i : InputId => l.activeHigh.getLsbD i.val) ∧
    showsSet mask (fun i : Fin 12 => l.mask.getLsbD i.val)

/-- A demand record, its remaining hold rounded up to 100 ms (R17); an empty slot shows its tag and zeros. -/
structure State.DemandShown (s : State) (slot : SlotId) (bytes : List Byte) : Prop where
  length : bytes.length = 11
  handle : bytes.take 2 = le16 (slot.val * 256 + (s.dt.slots[slot]).tag)
  empty : (s.dt.slots[slot]).demand = none → bytes.drop 2 = List.replicate 9 0
  living : ∀ d : Demand, (s.dt.slots[slot]).demand = some d →
    ∃ flags source intent level hold,
      bytes.drop 2 = [flags, byteOf d.circuit.val, source, intent] ++ le16 level ++ [byteOf d.priority] ++ le16 hold ∧
      flags.getLsbD 0 = true ∧ flags.getLsbD 1 = d.gated ∧ flags.getLsbD 2 = d.expiry.isSome ∧
      flags.getLsbD 3 = d.level.isSome ∧ flags.toNat < 16 ∧
      (d.source = .host → source = 0x00) ∧ (∀ n : BindingId, d.source = .binding n → source.toNat = 0x10 + n.val) ∧
      (d.source = .lane .left → source = 0x20) ∧ (d.source = .lane .right → source = 0x21) ∧
      (∀ g : ChannelId, d.source = .warning g → source.toNat = 0x30 + g.val) ∧
      (d.source = .charge → source = 0x40) ∧ (d.source = .test → source = 0x50) ∧
      (d.intent = .on → intent = 0) ∧ (d.intent = .off → intent = 1) ∧ (d.intent = .followLane → intent = 2) ∧
      level = d.level.getD 0 ∧
      (d.expiry = none → hold = 0) ∧
      (∀ e, d.expiry = some e → e - s.now ≤ 100 * hold ∧ 100 * hold < (e - s.now) + 100)

/-- One entry of any table, in the layout of its table. -/
def State.EntryShown (s : State) (n : Nat) (bytes : List Byte) : Table → Prop
  | .circuit => ∀ c : CircuitId, n = c.val → (s.cfg.circuits[c]).Shown bytes
  | .binding => ∀ b : BindingId, n = b.val → (s.cfg.bindings[b]).Shown bytes
  | .lane => ∀ side : Side, n = side.index.val → (s.cfg.lane side).Shown bytes
  | .flash => s.cfg.flash.Shown bytes
  | .gauge => ∀ g : ChannelId, n = g.val → (s.cfg.gauges[g]).Shown bytes
  | .sender g => ∀ i : Fin 12, n = i.val → bytes = le16 ((s.cfg.sender[g])[i]).x ++ le16 ((s.cfg.sender[g])[i]).y
  | .drive g => ∀ i : Fin 8, n = i.val → bytes = le16 ((s.cfg.drive[g])[i]).x ++ le16 ((s.cfg.drive[g])[i]).y
  | .fan => s.cfg.fan.Shown bytes
  | .budget => s.cfg.budget.Shown bytes
  | .link => s.cfg.link.Shown bytes
  | .circuitState => ∀ c : CircuitId, n = c.val → (s.cc[c]).Shown s.now bytes
  | .gaugeState => ∀ g : ChannelId, n = g.val → s.GaugeShown g bytes
  | .demand => ∀ slot : SlotId, n = slot.val → s.DemandShown slot bytes

/-- The data of READ-STREAM (R156): the entries of the window from the first to the last, each in the layout of its
table. -/
def State.StreamShown (s : State) (w : Window) (bytes : List Byte) : Prop :=
  w.first ≤ w.last → w.last < w.table.entries →
    ∃ entries : List (List Byte), bytes = entries.flatten ∧ entries.length = w.last + 1 - w.first ∧
      ∀ (k : Nat) (entry : List Byte), entries[k]? = some entry →
        entry.length = w.table.entryBytes ∧ s.EntryShown (w.first + k) entry w.table

/-! ### What a write takes (R25, R46, R51, R70, R73, R87, R88, R110, R117, R129, R147, R158)

In each `Taken` the bytes are a lawful entry of the table, and the record is what the table stores for them. Bytes for
which no record is taken are refused. -/

/-- A field that may be written as DEFAULT, 0xFF (R25). -/
def DefaultTaken (dflt : Nat) (written : Byte) (stored : Nat) : Prop :=
  stored = if written = 0xFF then dflt else written.toNat

/-- A CIRCUIT entry (R25): DEFAULT stored as the default of the kind, the fields forced for the kind not checked, the pad
0. -/
def CircuitCfg.Taken (k : CircuitCfg) (bytes : List Byte) : Prop :=
  ∃ r0 r1 t0 t1 kind cls factor time lampOut retry test : Byte,
    bytes = [r0, r1, t0, t1, kind, cls, factor, time, lampOut, retry, test, 0] ∧
    k.rated = r0.toNat + 256 * r1.toNat ∧ k.rated ≤ 1500 ∧
    k.trip = t0.toNat + 256 * t1.toNat ∧ k.trip ≤ 3000 ∧
    kind = (match k.kind with
      | .none => 0
      | .filament => 1
      | .led => 2
      | .motor => 3
      | .gauge => 4) ∧
    k.cls = cls.toNat ∧ k.cls ≤ 3 ∧
    (k.kind = .filament →
      DefaultTaken 6 factor k.inrushFactor ∧ 1 ≤ k.inrushFactor ∧ k.inrushFactor ≤ 8 ∧
      DefaultTaken 100 time k.inrushTime ∧ k.inrushTime ≤ 250 ∧ k.inrushTime % 10 = 0) ∧
    (k.kind ≠ .filament → k.inrushFactor = 1 ∧ k.inrushTime = 0) ∧
    DefaultTaken 50 lampOut k.lampOut ∧ 10 ≤ k.lampOut ∧ k.lampOut ≤ 90 ∧ k.lampOut % 5 = 0 ∧
    DefaultTaken 3 retry k.retryLimit ∧ k.retryLimit ≤ 7 ∧
    (k.kind = .filament ∨ k.kind = .led → test = if k.lampTest then 1 else 0) ∧
    (k.kind ≠ .filament → k.kind ≠ .led → k.lampTest = false)

/-- A BINDING entry (R51): an absent second input is 15, a hold of 0 is refused whatever the action, a level above 1000
is stored as 1000. -/
def BindingCfg.Taken (b : BindingCfg) (bytes : List Byte) : Prop :=
  ∃ flags inputs action target l0 l1 h0 h1 : Byte,
    bytes = [flags, inputs, action, target, l0, l1, h0, h1] ∧
    b.enable = flags.getLsbD 0 ∧ b.gated = flags.getLsbD 1 ∧ b.primaryActive = flags.getLsbD 2 ∧
    b.secondActive = flags.getLsbD 3 ∧ b.priority = flags.toNat / 16 ∧
    b.primary.val = inputs.toNat % 16 ∧
    (match b.second with
      | none => inputs.toNat / 16 = 15
      | some i => inputs.toNat / 16 = i.val) ∧
    (match b.action with
      | .whileOn c => action = 0 ∧ target.toNat = c.val
      | .toggle c => action = 1 ∧ target.toNat = c.val
      | .timed c => action = 2 ∧ target.toNat = c.val
      | .flashWhile lanes => action = 3 ∧ target = lanes.shown
      | .flashToggle lanes => action = 4 ∧ target = lanes.shown) ∧
    b.level = min 1000 (l0.toNat + 256 * l1.toNat) ∧
    b.hold = h0.toNat + 256 * h1.toNat ∧ 1 ≤ b.hold

/-- A LANE entry (R70): the members beyond the count disregarded, none twice, a level above 1000 stored as 1000. -/
def LaneCfg.Taken (l : LaneCfg) (bytes : List Byte) : Prop :=
  ∃ count m1 m2 m3 m4 l0 l1 priority : Byte,
    bytes = [count, m1, m2, m3, m4, l0, l1, priority] ∧
    count.toNat = l.members.length ∧ l.members.length ≤ 4 ∧
    l.members.map Fin.val = ([m1, m2, m3, m4].take l.members.length).map BitVec.toNat ∧ l.members.Nodup ∧
    l.level = min 1000 (l0.toNat + 256 * l1.toNat) ∧
    l.priority = priority.toNat ∧ l.priority ≤ 15

/-- A flash time (R73): clamped to 100 to 1000, and in between rounded down to a multiple of 10. -/
def FlashTimeTaken (written stored : Nat) : Prop :=
  (written < 100 → stored = 100) ∧ (1000 < written → stored = 1000) ∧
    (100 ≤ written → written ≤ 1000 → stored ≤ written ∧ written < stored + 10 ∧ stored % 10 = 0)

/-- The FLASH entry (R73). -/
def FlashCfg.Taken (f : FlashCfg) (bytes : List Byte) : Prop :=
  ∃ n0 n1 f0 f1 fast sync tick : Byte,
    bytes = [n0, n1, f0, f1, fast, sync, tick] ∧
    FlashTimeTaken (n0.toNat + 256 * n1.toNat) f.onTime ∧ FlashTimeTaken (f0.toNat + 256 * f1.toNat) f.offTime ∧
    fast = (if f.fast then 1 else 0) ∧ sync = (if f.sync then 1 else 0) ∧
    tick = (match f.tick with
      | .off => 0
      | .pulse => 1
      | .follow => 2)

/-- A GAUGE entry (R87, R88). That a flag bit beyond the four refuses it is log 16. -/
def GaugeCfg.Taken (g : GaugeCfg) (bytes : List Byte) : Prop :=
  ∃ flags sender drive o0 o1 short damping v0 v1 hold senders drives w0 w1 hysteresis delay lamp priority : Byte,
    bytes = [flags, sender, drive, o0, o1, short, damping, v0, v1, hold, senders, drives, w0, w1, hysteresis, delay, lamp,
      priority] ∧
    flags.toNat < 16 ∧ g.enable = flags.getLsbD 0 ∧ g.rangeHigh = flags.getLsbD 1 ∧
    g.warnEnable = flags.getLsbD 2 ∧ g.warnAbove = flags.getLsbD 3 ∧
    g.sender.val = sender.toNat ∧ g.drive.val = drive.toNat ∧
    g.openThr = o0.toNat + 256 * o1.toNat ∧ 900 ≤ g.openThr ∧ g.openThr ≤ 999 ∧
    g.shortThr = short.toNat ∧ g.shortThr ≤ 100 ∧ g.damping = damping.toNat ∧
    g.stabilised = v0.toNat + 256 * v1.toNat ∧ 2000 ≤ g.stabilised ∧ g.stabilised ≤ 12000 ∧
    g.holdTime = hold.toNat ∧
    g.senderPoints = senders.toNat ∧ 2 ≤ g.senderPoints ∧ g.senderPoints ≤ 12 ∧
    g.drivePoints = drives.toNat ∧ 2 ≤ g.drivePoints ∧ g.drivePoints ≤ 8 ∧
    g.warnThr = w0.toNat + 256 * w1.toNat ∧ g.warnThr ≤ 1000 ∧
    g.hysteresis = hysteresis.toNat ∧ g.hysteresis ≤ 200 ∧ g.warnDelay = delay.toNat ∧
    g.warnCircuit.val = lamp.toNat ∧ g.warnPriority = priority.toNat ∧ g.warnPriority ≤ 15

/-- A curve point, with x at most `greatest` (R110). -/
def Point.Taken (greatest : Nat) (p : Point) (bytes : List Byte) : Prop :=
  ∃ x0 x1 y0 y1 : Byte, bytes = [x0, x1, y0, y1] ∧ p.x = x0.toNat + 256 * x1.toNat ∧ p.x ≤ greatest ∧
    p.y = y0.toNat + 256 * y1.toNat ∧ p.y ≤ 1000

/-- The FAN entry (R117): the steps in use strictly ascending, the others within their range. -/
def FanCfg.Taken (f : FanCfg) (bytes : List Byte) : Prop :=
  ∃ count a0 a1 b0 b1 c0 c1 d0 d1 s0 s1 r0 r1 q0 q1 : Byte,
    bytes = [count, a0, a1, b0, b1, c0, c1, d0, d1, s0, s1, r0, r1, q0, q1] ∧
    f.count = count.toNat ∧ 1 ≤ f.count ∧ f.count ≤ 4 ∧
    f.steps[0] = a0.toNat + 256 * a1.toNat ∧ f.steps[1] = b0.toNat + 256 * b1.toNat ∧
    f.steps[2] = c0.toNat + 256 * c1.toNat ∧ f.steps[3] = d0.toNat + 256 * d1.toNat ∧
    (∀ i : Fin 4, 1 ≤ f.steps[i] ∧ f.steps[i] ≤ 1000) ∧
    (∀ i j : Fin 4, i < j → j.val < f.count → f.steps[i] < f.steps[j]) ∧
    f.start = s0.toNat + 256 * s1.toNat ∧ 100 ≤ f.start ∧ f.start ≤ 1000 ∧
    f.rate = r0.toNat + 256 * r1.toNat ∧ 10 ≤ f.rate ∧ f.rate ≤ 1000 ∧
    f.stall = q0.toNat + 256 * q1.toNat ∧ f.stall ≤ 3000

/-- The BUDGET entry (R129): the low threshold at least 20 above the critical one. -/
def BudgetCfg.Taken (b : BudgetCfg) (bytes : List Byte) : Prop :=
  ∃ system d0 d1 b0 b1 p0 p1 l0 l1 c0 c1 e0 e1 m0 m1 y0 y1 t0 t1 lamp : Byte,
    bytes = [system, d0, d1, b0, b1, p0, p1, l0, l1, c0, c1, e0, e1, m0, m1, y0, y1, t0, t1, lamp] ∧
    system = (match b.system with
      | .six => 6
      | .twelve => 12) ∧
    b.dynamo = d0.toNat + 256 * d1.toNat ∧ b.dynamo ≤ 4000 ∧
    b.battery = b0.toNat + 256 * b1.toNat ∧ b.battery ≤ 4000 ∧
    b.park = p0.toNat + 256 * p1.toNat ∧ b.park ≤ 4000 ∧
    b.low = l0.toNat + 256 * l1.toNat ∧ 700 ≤ b.low ∧ b.low ≤ 980 ∧
    b.critical = c0.toNat + 256 * c1.toNat ∧ 500 ≤ b.critical ∧ b.critical ≤ 960 ∧
    b.derate = e0.toNat + 256 * e1.toNat ∧ b.derate ≤ 1000 ∧
    b.margin = m0.toNat + 256 * m1.toNat ∧ b.margin ≤ 1000 ∧
    b.delay = y0.toNat + 256 * y1.toNat ∧ b.delay ≤ 600 ∧
    b.chargeThr = t0.toNat + 256 * t1.toNat ∧ (b.chargeThr = 0 ∨ 1000 ≤ b.chargeThr ∧ b.chargeThr ≤ 16000) ∧
    (match b.lamp with
      | none => lamp = 0xFF
      | some c => lamp.toNat = c.val) ∧
    b.critical + 20 ≤ b.low

/-- The LINK entry (R46, R147, R158): members 12 to 15 of both sets disregarded. -/
def LinkCfg.Taken (l : LinkCfg) (bytes : List Byte) : Prop :=
  ∃ a0 a1 debounce ignition base general m0 m1 : Byte,
    bytes = [a0, a1, debounce, ignition, base, general, m0, m1] ∧
    (∀ i : Fin 12, l.activeHigh.getLsbD i.val = (a0.toNat + 256 * a1.toNat).testBit i.val) ∧
    l.debounce = debounce.toNat ∧ 2 ≤ l.debounce ∧ l.debounce ≤ 15 ∧ l.ignition.val = ignition.toNat ∧
    l.base = base.toNat ∧ 0x08 ≤ l.base ∧ l.base ≤ 0x74 ∧ l.base % 4 = 0 ∧
    general = (if l.generalCall then 1 else 0) ∧
    (∀ i : Fin 12, l.mask.getLsbD i.val = (m0.toNat + 256 * m1.toNat).testBit i.val)

/-- Entry n of a table replaced by what its bytes give, and nothing else of the configuration; a read-only table takes
none. -/
def LiveConfig.EntryTaken (old new : LiveConfig) (n : Nat) (bytes : List Byte) : Table → Prop
  | .circuit => ∃ (c : CircuitId) (e : CircuitCfg), n = c.val ∧ e.Taken bytes ∧
    new = { old with circuits := old.circuits.set c e }
  | .binding => ∃ (b : BindingId) (e : BindingCfg), n = b.val ∧ e.Taken bytes ∧
    new = { old with bindings := old.bindings.set b e }
  | .lane => ∃ (i : Fin 2) (e : LaneCfg), n = i.val ∧ e.Taken bytes ∧ new = { old with lanes := old.lanes.set i e }
  | .flash => ∃ e : FlashCfg, n = 0 ∧ e.Taken bytes ∧ new = { old with flash := e }
  | .gauge => ∃ (g : ChannelId) (e : GaugeCfg), n = g.val ∧ e.Taken bytes ∧
    new = { old with gauges := old.gauges.set g e }
  | .sender g => ∃ (i : Fin 12) (e : Point), n = i.val ∧ e.Taken 16383 bytes ∧
    new = { old with sender := old.sender.set g ((old.sender[g]).set i e) }
  | .drive g => ∃ (i : Fin 8) (e : Point), n = i.val ∧ e.Taken 1000 bytes ∧
    new = { old with drive := old.drive.set g ((old.drive[g]).set i e) }
  | .fan => ∃ e : FanCfg, n = 0 ∧ e.Taken bytes ∧ new = { old with fan := e }
  | .budget => ∃ e : BudgetCfg, n = 0 ∧ e.Taken bytes ∧ new = { old with budget := e }
  | .link => ∃ e : LinkCfg, n = 0 ∧ e.Taken bytes ∧ new = { old with link := e }
  | .circuitState => False
  | .gaugeState => False
  | .demand => False

/-- The entries of a stream taken into a table from entry n on. -/
def LiveConfig.EntriesTaken (t : Table) (new : LiveConfig) : LiveConfig → Nat → List (List Byte) → Prop
  | old, _, [] => new = old
  | old, n, bytes :: rest => ∃ mid, old.EntryTaken mid n bytes t ∧ LiveConfig.EntriesTaken t new mid (n + 1) rest

/-- A class 0 circuit of kind FILAMENT or LED. -/
def CircuitCfg.TellTale (k : CircuitCfg) : Prop := k.cls = 0 ∧ (k.kind = .filament ∨ k.kind = .led)

/-- The cross-table checks of R159, each for the tables whose writes it judges: the configuration as it would stand,
against the ranked lists of `s`. -/
structure LiveConfig.Passes (cfg : LiveConfig) (s : State) (t : Table) : Prop where
  demands : t = .circuit → ∀ c : CircuitId, s.dt.lists[c] ≠ [] →
    (cfg.circuits[c]).kind ≠ .none ∧ (cfg.circuits[c]).kind ≠ .gauge
  motor : t = .circuit → ∀ c d : CircuitId, (cfg.circuits[c]).kind = .motor → (cfg.circuits[d]).kind = .motor → c = d
  targets : t = .binding ∨ t = .circuit → ∀ (n : BindingId) (c : CircuitId), (cfg.bindings[n]).enable = true →
    (cfg.bindings[n]).action = .whileOn c ∨ (cfg.bindings[n]).action = .toggle c ∨
      (cfg.bindings[n]).action = .timed c →
    (cfg.circuits[c]).kind ≠ .none ∧ (cfg.circuits[c]).kind ≠ .gauge
  flash : t = .binding → ∀ which : List BindingId, which.Nodup →
    (∀ n ∈ which, ∃ lanes, (cfg.bindings[n]).action = .flashWhile lanes ∨
      (cfg.bindings[n]).action = .flashToggle lanes) → which.length ≤ 7
  members : t = .lane ∨ t = .circuit → ∀ (side : Side) (c : CircuitId), c ∈ (cfg.lane side).members →
    (cfg.circuits[c]).TellTale
  drives : t = .gauge ∨ t = .circuit → ∀ g : ChannelId, (cfg.gauges[g]).enable = true →
    ((cfg.circuits[(cfg.gauges[g]).drive]).cls = 0 ∧ (cfg.circuits[(cfg.gauges[g]).drive]).kind = .gauge) ∧
    ∀ h : ChannelId, (cfg.gauges[h]).enable = true → (cfg.gauges[h]).drive = (cfg.gauges[g]).drive → h = g
  senders : t = .gauge → ∀ g h : ChannelId, (cfg.gauges[g]).enable = true → (cfg.gauges[h]).enable = true →
    (cfg.gauges[h]).sender = (cfg.gauges[g]).sender → h = g
  warnings : t = .gauge ∨ t = .circuit → ∀ g : ChannelId, (cfg.gauges[g]).enable = true →
    (cfg.gauges[g]).warnEnable = true → (cfg.circuits[(cfg.gauges[g]).warnCircuit]).TellTale
  curves : t = .gauge ∨ (∃ g, t = .sender g ∨ t = .drive g) → ∀ g : ChannelId, (cfg.gauges[g]).enable = true →
    (∀ i j : Fin 12, i < j → j.val < (cfg.gauges[g]).senderPoints →
      ((cfg.sender[g])[i]).x < ((cfg.sender[g])[j]).x) ∧
    (∀ i j : Fin 8, i < j → j.val < (cfg.gauges[g]).drivePoints → ((cfg.drive[g])[i]).x < ((cfg.drive[g])[j]).x)
  lamp : t = .budget ∨ t = .circuit → ∀ c : CircuitId, cfg.budget.lamp = some c → (cfg.circuits[c]).TellTale

/-! ### The budget (R143) -/

/-- The sum of the expected draws at the granted levels of all sheddable circuits. -/
def State.sheddableDraw (s : State) : Nat :=
  ((allCircuits.filter (fun c => decide ((s.cfg.circuits[c]).cls ≠ 0))).map
    (fun c => expectedDraw (s.cfg.circuits[c]).rated (s.cc[c]).granted)).sum

/-- R143: the sum never exceeds the sheddable allowance of the most recent evaluation. -/
def State.BudgetLawful (s : State) : Prop := s.sheddableDraw ≤ s.sbu.last.sheddable

/-! ### The gauges (R98, R111, R113) -/

/-- Every point of every curve has a y of at most 1000 (R110). -/
def LiveConfig.curvesBounded (cfg : LiveConfig) : Prop :=
  ∀ g : ChannelId, (∀ p ∈ (cfg.sender[g]).toList, p.y ≤ 1000) ∧ (∀ p ∈ (cfg.drive[g]).toList, p.y ≤ 1000)

/-- The law of one gauge channel. -/
structure Channel.Lawful (ch : Channel) : Prop where
  /-- R113: f lies within 0 to 16000. -/
  filter_le : ch.filter ≤ 16000
  /-- R98: the duty lies within 0 to 1000. -/
  duty_le : ch.duty ≤ 1000
  /-- R102: a direct reading is recorded at most 1000. -/
  direct_le : ∀ r, ch.directReading = some r → r ≤ 1000
  /-- R98: "a channel that is DISABLED, OFF or REST has duty 0". -/
  resting : ch.state = .disabled ∨ ch.state = .off ∨ ch.state = .rest → ch.duty = 0 ∧ ch.filter = 0

/-- The law of the gauges. -/
def State.GaugesLawful (s : State) : Prop :=
  s.cfg.curvesBounded ∧ ∀ g : ChannelId, Channel.Lawful s.ge[g]

/-! ### The configuration (R22, R25, R158, R159) -/

/-- Every entry of every table is taken back from its own bytes as it stands, so nothing of it is out of range. -/
def LiveConfig.stored (cfg : LiveConfig) : Prop :=
  (∀ c : CircuitId, CircuitCfg.ofBytes (cfg.circuits[c]).bytes = some cfg.circuits[c]) ∧
  (∀ n : BindingId, BindingCfg.ofBytes (cfg.bindings[n]).bytes = some cfg.bindings[n]) ∧
  (∀ i : Fin 2, LaneCfg.ofBytes (cfg.lanes[i]).bytes = some cfg.lanes[i]) ∧
  FlashCfg.ofBytes cfg.flash.bytes = some cfg.flash ∧
  (∀ g : ChannelId, GaugeCfg.ofBytes (cfg.gauges[g]).bytes = some cfg.gauges[g]) ∧
  (∀ (g : ChannelId) (i : Fin 12),
    Point.ofBytes senderXMax ((cfg.sender[g])[i]).bytes = some (cfg.sender[g])[i]) ∧
  (∀ (g : ChannelId) (i : Fin 8),
    Point.ofBytes driveXMax ((cfg.drive[g])[i]).bytes = some (cfg.drive[g])[i]) ∧
  FanCfg.ofBytes cfg.fan.bytes = some cfg.fan ∧
  BudgetCfg.ofBytes cfg.budget.bytes = some cfg.budget ∧
  LinkCfg.ofBytes cfg.link.bytes = some cfg.link

/-- A lamp-test participant is a lamp (R25), and an enabled channel is the one that is not DISABLED (R97, R105). -/
def State.Aligned (s : State) : Prop :=
  (∀ c : CircuitId, (s.cfg.circuits[c]).lampTest = true → (s.cfg.circuits[c]).kind.isLamp = true) ∧
  (∀ g : ChannelId, (s.cfg.gauges[g]).enable = true ↔ (s.ge[g]).state ≠ .disabled)

/-- The law of the configuration: the cross-table checks of R159 hold of the tables and of the ranked lists as they
stand, so every living demand stands on a circuit of kind FILAMENT, LED or MOTOR (R22). -/
def State.ConfigLawful (s : State) : Prop := s.cfg.lawful s.occupied = true ∧ s.Aligned

/-! ### The part as a whole -/

/-- Whether an enabled channel drives a circuit. -/
def State.driven (s : State) (c : CircuitId) : Prop :=
  ∃ g : ChannelId, (s.cfg.gauges[g]).enable = true ∧ (s.cfg.gauges[g]).drive = c

/-- The law of the part as a whole: the demand table, the lanes and the flash clock, the configuration and the circuits,
each as the others leave it. -/
structure State.Lawful (s : State) : Prop where
  table : s.dt.Lawful
  lanes : s.LanesStand
  stored : s.cfg.stored
  config : s.ConfigLawful
  levels : s.LevelsLawful
  inStep : ∀ c : CircuitId, s.InStep c
  /-- R10, R11: every circuit that takes demands stands at what its ranked list gives it. -/
  resolved : ∀ c : CircuitId, (s.cfg.circuits[c]).kind.takesDemands = true →
    s.dt.res[c] = s.resolution c ∧ (s.cc[c]).flashing = s.winnerFollows c
  /-- R22, R98: a circuit of another kind has no winner, and a level only from an enabled channel that drives it. -/
  undemanded : ∀ c : CircuitId, (s.cfg.circuits[c]).kind.takesDemands = false →
    (s.dt.res[c]).winner = none ∧ (s.dt.res[c]).requested = 0 ∧ (s.cc[c]).flashing = false ∧
    (¬ s.driven c → (s.dt.res[c]).resolved = 0)
  /-- R28: "A circuit of kind NONE has resolved, granted and applied level 0 and stays in OFF". -/
  unused : ∀ c : CircuitId, (s.cfg.circuits[c]).kind = .none →
    (s.cc[c]).resolved = 0 ∧ (s.cc[c]).granted = 0 ∧ (s.cc[c]).applied = 0 ∧ (s.cc[c]).state = .off
  /-- R119: "The granted level of the MOTOR circuit is always 0 or one of the steps in use." -/
  steps : ∀ c : CircuitId, (s.cfg.circuits[c]).kind = .motor →
    (s.cc[c]).granted = 0 ∨ (s.cc[c]).granted ∈ s.cfg.fan.stepsInUse
  clock : s.ClockLawful

/-! ### The store -/

/-- The image and the program buffer are in canonical form. -/
def State.ImageLawful (s : State) : Prop := s.cs.image.wf ∧ ∀ b, s.cs.buffer = some b → b.wf

end Sys2Proof.Machine
end

