-- ==== Sys2Proof/WellFormed.lean ====
section
/-! DEFINITION. What a command's operands must satisfy to be one the world can send. The link commands take any
parameter bytes (the part judges them); the checks are on lengths and on values that come from the part's own
converters and pages. `exec` is total: it answers on ill-formed commands too. -/

namespace Sys2Proof

/-- A page has 32 bytes (R167), so a defect's offset is below 32. -/
def PageDefects.wellFormed (d : PageDefects) : Bool := d.all (fun p => decide (p.1 < 32))

/-- WRITE-STREAM carries 1 to 258 bytes (R157); a code is at most 4095 (R90). -/
def Instr.wellFormed : Instr → Bool
  | .writeStream entries => decide (1 ≤ entries.length) && decide (entries.length ≤ 258)
  | .senderConversion _ code => decide (code ≤ 4095)
  | .savePageProgrammed d => PageDefects.wellFormed d
  | .erasePageErased d => PageDefects.wellFormed d
  | .powerOnReset _ | .writeFrame _ _ | .addressMatchWake _ _ | .place _ _ _ _ _ _ | .amend _ _ _ _ _
  | .retire _ | .retireHostAll | .readDemand _ | .listCircuit _ | .readCircuit _ | .clearFault _ | .flash _ _
  | .flashStop | .lampTest _ | .gaugeDirect _ _ | .gaugeRelease _ | .readGauge _ | .readSupply
  | .setWindow _ _ _ | .readStream | .readStatus | .ackStatus _ | .save | .lockStore | .eraseStore | .reset
  | .readResult | .senseSample _ | .inputWake _ | .holdExpiry | .inrushExpiry _ | .currentMeasurement _ _
  | .retryExpiry _ | .quietTimeExpiry _ | .rampStep _ | .onPhaseExpiry | .offPhaseExpiry | .syncLineFall
  | .syncLineRise | .waitSyncTimeout | .tickPulseEnd | .gaugeTick _ | .supplySample _ _
  | .evaluationTimerExpiry | .sleepTimerExpiry | .saveVerifyEnd | .powerLossOrResetAsserted => true

end Sys2Proof
end

