-- ==== Sys2Proof/Certificates/Slice0/Obligations.lean ====
section
/-! DEFINITION. The statements for the provers. Each docstring says what the definition states and the rules it rests
on; a clause that rests on a choice of the model names its log. -/

open Sys2Proof Sys2Proof.Machine

/-! ### The block and its queue -/

/-- A step takes the command at the front of the queue and is that command's effect on the rest of the state. -/
def Obligations.StepRunsFrontCommand : Prop :=
  ∀ (c : Instr) (rest : List Instr) (s : State), s.pending = c :: rest → step s = exec c { s with pending := rest }

/-- On an empty queue a due timer event is delivered; with none due, a due sample is waited for, and otherwise one
millisecond passes (the model's choice: logs 1, 3 and 4). -/
def Obligations.EmptyQueueRunsTheClock : Prop :=
  ∀ s : State, s.pending = [] →
    (s.dueEvents ≠ [] → ∃ e ∈ s.dueEvents, step s = exec e { s with order := s.order.tail }) ∧
    (s.dueEvents = [] → s.awaitsSample = true → step s = .next s) ∧
    (s.dueEvents = [] → s.awaitsSample = false → step s = .next { s with now := s.now + 1 })

/-- Every command answers a next state, in every state of the part; it leaves the queue and the clock alone and no
evaluation event waiting (R141, R152; log 25). -/
def Obligations.EveryCommandAnswersAndIsTakenWhole : Prop :=
  ∀ (i : Instr) (s : State), s.evaluate = false →
    ∃ t, exec i s = .next t ∧ t.evaluate = false ∧ t.pending = s.pending ∧ t.now = s.now

/-! ### Power (R174) -/

/-- R174: a power-on reset sets every block to its power-on values, reads the straps, and loads a good image, or takes
the factory defaults with CONFIG-DEFAULTED raised and the attention line low; an enabled channel applies its pull-up
(R90). That the inputs' last samples are absent and no measurement schedule runs is the model's choice (log 35). -/
def Obligations.PowerOnStartsEveryBlockOnTheImage : Prop :=
  ∀ (straps : BitVec 2) (s : State),
    ∃ t, exec (.powerOnReset straps) s = .next t ∧ t.powered = true ∧ t.BlocksAtReset ∧
      (∀ i : InputId, t.ibu.inputs[i] = ⟨none, none, 0⟩) ∧ t.ibu.ignition = false ∧
      (∀ n : BindingId, t.ibu.bindings[n] = ⟨.notEvaluated, .none⟩) ∧
      (∀ g : ChannelId, t.appliedPullUp g = (if (t.cfg.gauges[g]).enable then
        some (if (t.cfg.gauges[g]).rangeHigh then 1000 else 100) else none)) ∧
      t.lp.straps = straps ∧ t.lp.response = none ∧ t.lp.last = ⟨0x00, .ok, 0⟩ ∧ t.lp.window = none ∧
      t.cs.state = .idle ∧ t.cs.buffer = none ∧
      (∀ a : Nat, (∀ p, s.cs.state.pageInHand = some p → a < 32 * p ∨ 32 * p + 32 ≤ a) →
        t.cs.image.read a = s.cs.image.read a) ∧
      (∀ (cfg : LiveConfig) (lock : Bool), judge t.cs.image = some (cfg, lock) →
        t.cfg = cfg ∧ t.cs.lock = lock ∧ t.lp.pending = 0 ∧ t.attentionLow = false) ∧
      (judge t.cs.image = none →
        t.cfg = factoryConfig ∧ t.cs.lock = false ∧ t.lp.pending = Status.configDefaulted.mark ∧
        t.attentionLow = true) ∧
      t.now = s.now ∧ t.order = s.order ∧ t.pending = s.pending ∧ t.fu.wireLow = s.fu.wireLow

/-- R168, R170: the image that a save forms of a lawful configuration is judged good at power-on and gives that
configuration and that lock byte back, every field of every table. -/
def Obligations.SavedImageLoadsBack : Prop :=
  ∀ (lock : Bool) (cfg : LiveConfig), cfg.stored → cfg.lawful (fun _ => false) = true →
    judge (imageOf lock cfg) = some (cfg, lock)

/-- R174: while power is off or RESET asserted, every output is off, the open-drain lines are released, TICK is low
and no address is acknowledged; a save or an erase is cut short and the pages not in hand stand (R170, R172). What the
page in hand holds is free: log 7; that no sender is pulled up is log 10. -/
def Obligations.PowerLossReleasesEveryLine : Prop :=
  ∀ s : State, s.powered = true →
    ∃ t, exec .powerLossOrResetAsserted s = .next t ∧ t.powered = false ∧
      (∀ c : CircuitId, t.duty c = 0) ∧ (∀ g : ChannelId, t.appliedPullUp g = none) ∧
      t.attentionLow = false ∧ t.pullsSync = false ∧ t.tickHigh = false ∧
      (∀ (a : BitVec 7) (read : Bool), t.acknowledges a read = false) ∧
      t.cs.state = .idle ∧ t.cs.buffer = none ∧
      (∀ a : Nat, (∀ p, s.cs.state.pageInHand = some p → a < 32 * p ∨ 32 * p + 32 ≤ a) →
        t.cs.image.read a = s.cs.image.read a) ∧
      t.now = s.now ∧ t.order = s.order ∧ t.pending = s.pending ∧ t.fu.wireLow = s.fu.wireLow

/-- A part without power takes no command but a power-on reset; the wire of FSYNC alone moves, being outside the part,
and the part does not read it (R174; logs 6 and 10). -/
def Obligations.UnpoweredPartTakesNothing : Prop :=
  ∀ s : State, s.powered = false →
    (∀ i : Instr, (∀ straps, i ≠ .powerOnReset straps) → i ≠ .syncLineFall → i ≠ .syncLineRise →
      exec i s = .next s) ∧
    exec .syncLineFall s = .next { s with fu := { s.fu with wireLow := true } } ∧
    exec .syncLineRise s = .next { s with fu := { s.fu with wireLow := false } }

/-! ### The Demand Table (R1 to R21) -/

/-- R4: a handle given on the link names a demand only if its slot, the value divided by 256, is at most 63, its tag,
the remainder, is not 0, the slot holds a demand, and the slot's tag is the handle's. -/
def Obligations.HandleNamesOnlyALivingDemand : Prop :=
  ∀ (dt : DemandTable) (handle : Half) (slot : SlotId) (d : Demand),
    dt.named handle = some (slot, d) ↔
      handle.toNat / 256 = slot.val ∧ handle.toNat % 256 ≠ 0 ∧ (dt.slots[slot]).tag = handle.toNat % 256 ∧
        (dt.slots[slot]).demand = some d

/-- R5, R8, R9: PLACE is judged in its order, and one that passes creates one host demand in the free slot of lowest
number, under the advanced tag, at the front of its priority group; its circuit is resolved anew. -/
def Obligations.PlaceIsJudgedInOrderAndCreatesOneDemand : Prop :=
  ∀ (s : State) (circuit intent : Byte) (level : Half) (priority : Byte) (hold : Half) (gated : Byte), s.Ready →
    (15 < circuit.toNat ∨ 1 < intent.toNat ∨ 15 < priority.toNat →
      exec (.place circuit intent level priority hold gated) s = .next (s.answered 0x10 .badParameter [])) ∧
    ∀ c : CircuitId, circuit.toNat = c.val → intent.toNat ≤ 1 → priority.toNat ≤ 15 →
      ((s.cfg.circuits[c]).kind = .none ∨ (s.cfg.circuits[c]).kind = .gauge →
        exec (.place circuit intent level priority hold gated) s = .next (s.answered 0x10 .wrongKind [])) ∧
      ((s.cfg.circuits[c]).kind.takesDemands = true → gated ≠ 0 → s.ibu.ignition = false →
        exec (.place circuit intent level priority hold gated) s = .next (s.answered 0x10 .wrongState [])) ∧
      ((s.cfg.circuits[c]).kind.takesDemands = true → gated = 0 ∨ s.ibu.ignition = true →
        (20 ≤ s.dt.hostCount →
          exec (.place circuit intent level priority hold gated) s = .next (s.answered 0x10 .quotaFull [])) ∧
        (s.dt.hostCount < 20 → ∀ slot : SlotId, (s.dt.slots[slot]).demand = none →
          (∀ j : SlotId, j < slot → (s.dt.slots[j]).demand ≠ none) →
          ∃ t tag, exec (.place circuit intent level priority hold gated) s = .next t ∧
            tag = (if (s.dt.slots[slot]).tag = 255 then 1 else (s.dt.slots[slot]).tag + 1) ∧
            t.dt.slots = s.dt.slots.set slot ⟨tag, some
              { circuit := c
                source := .host
                intent := if intent = 0 then .on else .off
                level := if intent = 0 then some (min 1000 level.toNat) else none
                priority := priority.toNat
                expiry := if hold = 0 then none else some (s.now + 100 * hold.toNat)
                gated := decide (gated ≠ 0) }⟩ ∧
            s.dt.Enters priority.toNat slot s.dt.lists[c] t.dt.lists[c] ∧
            (∀ x, x ≠ c → t.dt.lists[x] = s.dt.lists[x]) ∧
            t.dt.hostCount = s.dt.hostCount + 1 ∧
            t.dt.res[c] = t.resolution c ∧ (s.InStep c → t.InStep c) ∧
            t.lp.last = ⟨0x10, .ok, slot.val * 256 + tag⟩ ∧
            t.lp.response = some (responseBytes .ok (le16 (slot.val * 256 + tag))) ∧
            s.DemandFrame (fun x => x = c) t))

/-- R13: AMEND is judged in its order, and one that passes makes its changes together in the living record; a new
priority, also an equal one, moves the demand to the front of its group; the circuit, of a kind that takes demands
(R22), is resolved anew. -/
def Obligations.AmendIsJudgedInOrderAndChangesTheRecord : Prop :=
  ∀ (s : State) (handle : Half) (selection : Byte) (level : Half) (priority : Byte) (hold : Half), s.Ready →
    (selection.toNat % 8 = 0 ∨ (selection.getLsbD 1 = true ∧ 15 < priority.toNat) →
      exec (.amend handle selection level priority hold) s = .next (s.answered 0x11 .badParameter [])) ∧
    (selection.toNat % 8 ≠ 0 → selection.getLsbD 1 = false ∨ priority.toNat ≤ 15 →
      (s.dt.named handle = none →
        exec (.amend handle selection level priority hold) s = .next (s.answered 0x11 .noSuchDemand [])) ∧
      ∀ (slot : SlotId) (d : Demand), s.dt.named handle = some (slot, d) →
        (d.source ≠ .host →
          exec (.amend handle selection level priority hold) s = .next (s.answered 0x11 .notOwner [])) ∧
        (d.source = .host → selection.getLsbD 0 = true → d.intent = .off →
          exec (.amend handle selection level priority hold) s = .next (s.answered 0x11 .badParameter [])) ∧
        (d.source = .host → selection.getLsbD 0 = false ∨ d.intent ≠ .off →
          ∃ t p, exec (.amend handle selection level priority hold) s = .next t ∧
            p = (if selection.getLsbD 1 = true then priority.toNat else d.priority) ∧
            t.dt.slots = s.dt.slots.set slot ⟨(s.dt.slots[slot]).tag, some
              { d with
                level := if selection.getLsbD 0 = true then some (min 1000 level.toNat) else d.level
                priority := p
                expiry := if selection.getLsbD 2 = true then
                    (if hold = 0 then none else some (s.now + 100 * hold.toNat))
                  else d.expiry }⟩ ∧
            (selection.getLsbD 1 = true → s.dt.Enters p slot ((s.dt.lists[d.circuit]).filter (fun x => x ≠ slot))
              t.dt.lists[d.circuit]) ∧
            (selection.getLsbD 1 = false → t.dt.lists[d.circuit] = s.dt.lists[d.circuit]) ∧
            (∀ x, x ≠ d.circuit → t.dt.lists[x] = s.dt.lists[x]) ∧
            t.dt.hostCount = s.dt.hostCount ∧
            ((s.cfg.circuits[d.circuit]).kind.takesDemands = true → t.dt.res[d.circuit] = t.resolution d.circuit) ∧
            (s.InStep d.circuit → t.InStep d.circuit) ∧
            t.lp.last = ⟨0x11, .ok, 0⟩ ∧ t.lp.response = some (responseBytes .ok []) ∧
            s.DemandFrame (fun x => x = d.circuit) t))

/-- R14: RETIRE empties the slot of a host demand, keeping its tag, takes it out of its list, lowers the host count
and resolves the circuit, of a kind that takes demands (R22), anew; another handle is refused. -/
def Obligations.RetireEmptiesTheSlotOfAHostDemand : Prop :=
  ∀ (s : State) (handle : Half), s.Ready →
    (s.dt.named handle = none → exec (.retire handle) s = .next (s.answered 0x12 .noSuchDemand [])) ∧
    ∀ (slot : SlotId) (d : Demand), s.dt.named handle = some (slot, d) →
      (d.source ≠ .host → exec (.retire handle) s = .next (s.answered 0x12 .notOwner [])) ∧
      (d.source = .host →
        ∃ t, exec (.retire handle) s = .next t ∧
          t.dt.slots = s.dt.slots.set slot ⟨(s.dt.slots[slot]).tag, none⟩ ∧
          t.dt.lists[d.circuit] = (s.dt.lists[d.circuit]).filter (fun x => x ≠ slot) ∧
          (∀ x, x ≠ d.circuit → t.dt.lists[x] = s.dt.lists[x]) ∧
          t.dt.hostCount = s.dt.hostCount - 1 ∧
          ((s.cfg.circuits[d.circuit]).kind.takesDemands = true → t.dt.res[d.circuit] = t.resolution d.circuit) ∧
          (s.InStep d.circuit → t.InStep d.circuit) ∧
          t.lp.last = ⟨0x12, .ok, 0⟩ ∧ t.lp.response = some (responseBytes .ok []) ∧
          s.DemandFrame (fun x => x = d.circuit) t)

/-- R15: RETIRE-HOST-ALL empties the slot of every host demand, keeping the tags, and resolves each circuit that lost
one; internal demands stand and the host count becomes 0. -/
def Obligations.RetireHostAllLeavesInternalDemands : Prop :=
  ∀ s : State, s.Ready →
    ∃ t, exec .retireHostAll s = .next t ∧
      (∀ slot : SlotId, (∀ d, (s.dt.slots[slot]).demand = some d → d.source = .host) →
        t.dt.slots[slot] = ⟨(s.dt.slots[slot]).tag, none⟩) ∧
      (∀ (slot : SlotId) (d : Demand), (s.dt.slots[slot]).demand = some d → d.source ≠ .host →
        t.dt.slots[slot] = s.dt.slots[slot]) ∧
      (∀ c : CircuitId, t.dt.lists[c] = (s.dt.lists[c]).filter (fun x =>
        !((s.dt.slots[x]).demand.any (fun d => decide (d.source = .host) && decide (d.circuit = c))))) ∧
      t.dt.hostCount = 0 ∧
      (∀ c : CircuitId, (s.cfg.circuits[c]).kind.takesDemands = true →
        (∃ (slot : SlotId) (d : Demand), (s.dt.slots[slot]).demand = some d ∧ d.source = .host ∧ d.circuit = c) →
        t.dt.res[c] = t.resolution c ∧ (s.InStep c → t.InStep c)) ∧
      t.lp.last = ⟨0x13, .ok, 0⟩ ∧ t.lp.response = some (responseBytes .ok []) ∧
      s.DemandFrame (fun c => ∃ (slot : SlotId) (d : Demand),
        (s.dt.slots[slot]).demand = some d ∧ d.source = .host ∧ d.circuit = c) t

/-- R6: under the limits of its configuration the table has a free slot for every host demand within the quota and for
every internal demand whose key no living demand holds. -/
def Obligations.EverySourceFindsAFreeSlot : Prop :=
  ∀ s : State, s.dt.Lawful → (∀ side, (s.cfg.lane side).members.length ≤ 4) →
    (∀ (slot : SlotId) (d : Demand) (side : Side), (s.dt.slots[slot]).demand = some d → d.source = .lane side →
      d.circuit ∈ (s.cfg.lane side).members) →
    (s.dt.hostCount < 20 → s.dt.freeSlot ≠ none) ∧
    ∀ (source : Source) (c : CircuitId), source ≠ .host →
      (∀ side, source = .lane side → c ∈ (s.cfg.lane side).members) →
      s.dt.keyed source c = none → s.dt.freeSlot ≠ none

/-! ### Reads, wakes and frames (R21, R44, R104, R136, R144, R147 to R156, R163) -/

/-- A read answers what it reads and changes nothing but the sleep timer, the response and the last result; a
parameter that names nothing is refused (R21, R44, R104, R144, R150, R151, R156, R163). The data of each read are its
layout field by field (R166), and those of READ-STREAM every entry of the window, from the first to the last, in the
layout of its own table, the read-only tables included. What four of the records show at the edges is the model's
reading: logs 13, 14, 15 (the fast-flash flag in WAIT-SYNC) and 27. -/
def Obligations.ReadsAnswerAndChangeNothing : Prop :=
  ∀ s : State, s.Ready →
    (∀ handle : Half, s.dt.named handle = none →
      exec (.readDemand handle) s = .next (s.answered 0x14 .noSuchDemand [])) ∧
    (∀ (handle : Half) (slot : SlotId) (d : Demand), s.dt.named handle = some (slot, d) →
      exec (.readDemand handle) s = .next (s.answered 0x14 .ok (s.demandBytes slot)) ∧
      s.DemandShown slot (s.demandBytes slot)) ∧
    (∀ b : Byte, 15 < b.toNat → exec (.listCircuit b) s = .next (s.answered 0x15 .badParameter []) ∧
      exec (.readCircuit b) s = .next (s.answered 0x20 .badParameter [])) ∧
    (∀ (b : Byte) (c : CircuitId), b.toNat = c.val →
      exec (.listCircuit b) s = .next (s.answered 0x15 .ok (s.listBytes c)) ∧
      exec (.readCircuit b) s = .next (s.answered 0x20 .ok (s.circuitBytes c)) ∧
      s.ListShown c (s.listBytes c) ∧ s.CircuitShown c (s.circuitBytes c)) ∧
    (∀ b : Byte, 2 < b.toNat → exec (.readGauge b) s = .next (s.answered 0x42 .badParameter [])) ∧
    (∀ (b : Byte) (g : ChannelId), b.toNat = g.val →
      exec (.readGauge b) s = .next (s.answered 0x42 .ok (s.gaugeBytes g)) ∧ s.GaugeShown g (s.gaugeBytes g)) ∧
    exec .readSupply s = .next (s.answered 0x50 .ok s.supplyBytes) ∧ s.SupplyShown s.supplyBytes ∧
    (s.lp.window = none → exec .readStream s = .next (s.answered 0x62 .noWindow [])) ∧
    (∀ w : Window, s.lp.window = some w → exec .readStream s = .next (s.answered 0x62 .ok (s.windowBytes w)) ∧
      s.StreamShown w (s.windowBytes w)) ∧
    exec .readStatus s = .next (s.answered 0x70 .ok s.statusBytes) ∧ s.StatusShown s.statusBytes ∧
    exec .readResult s = .next (s.answered 0x91 .ok s.lp.last.bytes) ∧ s.lp.last.Shown s.lp.last.bytes

/-- R166, R17: the demand record a read shows, field by field, its remaining hold rounded up to 100 ms; an empty slot
shows its tag and zeros. -/
def Obligations.DemandRecordShowsEveryField : Prop :=
  ∀ (s : State) (slot : SlotId), s.DemandShown slot (s.demandBytes slot)

/-- R136: in ASLEEP an address match for the part, or a raw change on any sense input, wakes it: RUN or PARKED by the
ignition kept, sampling restarted on empty buffers with the counters at 0, conversions resumed and pull-ups applied
again (R90), and an evaluation made. A part that is awake, and traffic for another address, are left alone; a command for a sleeping part is executed
by the part as the wake leaves it (R152). The first sense sample is due 5 ms later by log 19, and the sleep timer, which
stands absent in ASLEEP, starts from 0 at the wake, if its conditions hold in PARKED, by log 44. -/
def Obligations.WakeRestartsSamplingAndEvaluates : Prop :=
  ∀ (s : State) (address : BitVec 7) (read : Bool) (i : InputId), s.powered = true →
    (s.sbu.power ≠ .asleep → exec (.inputWake i) s = .next s ∧ exec (.addressMatchWake address read) s = .next s) ∧
    (s.acknowledges address read = false → exec (.addressMatchWake address read) s = .next s) ∧
    (s.sbu.power = .asleep →
      (s.acknowledges address read = true → exec (.addressMatchWake address read) s = exec (.inputWake i) s) ∧
      ∃ t, exec (.inputWake i) s = .next t ∧
        t.sbu.power = (if s.ibu.ignition then .run else .parked) ∧
        t.sbu = { s.sbu with
          power := t.sbu.power, samples := [], chargeSamples := [], evaluateDue := some (s.now + 1000),
          sampleDue := some (s.now + 20), sleepSince := t.sbu.sleepSince, last := t.sbu.last } ∧
        t.sbu.last.made = true ∧
        (s.sbu.sleepSince = none → t.sbu.sleepSince = t.sleepAtZero) ∧
        t.ibu.sampleDue = some (s.now + 5) ∧ t.ibu.ignition = s.ibu.ignition ∧ t.ibu.bindings = s.ibu.bindings ∧
        (∀ j : InputId, t.ibu.inputs[j] = { s.ibu.inputs[j] with counter := 0 }) ∧
        (∀ g : ChannelId, t.ge[g] = { s.ge[g] with
          codes := [], convertDue := if (s.ge[g]).state = .disabled then none else some (s.now + 20) }) ∧
        (∀ g : ChannelId, s.appliedPullUp g = none ∧ t.appliedPullUp g = (if (s.ge[g]).state = .disabled then none
          else some (if (s.cfg.gauges[g]).rangeHigh then 1000 else 100))) ∧
        (∀ c : CircuitId, (s.cfg.circuits[c]).cls = 0 → t.cc[c] = s.cc[c]) ∧
        t.cfg = s.cfg ∧ t.dt = s.dt ∧ t.fu = s.fu ∧ t.cs = s.cs ∧ t.lp = { s.lp with pending := t.lp.pending } ∧
        (t.lp.pending = s.lp.pending ∨ t.lp.pending = s.lp.pending ||| Status.shedChanged.mark)) ∧
    (s.sbu.power = .asleep → ∀ f : Instr, commandCode f ≠ none →
      ∃ u, exec (.inputWake i) s = .next u ∧ u.Ready ∧ exec f s = exec f u)

/-- R147, R149: a frame for another address changes nothing; one for the part is judged in the order of R149 and
refused with no other effect, or executed as the command that its code and parameters spell. Of the bytes that follow
its address the part acknowledges the first 260, and none from the 261st on. -/
def Obligations.FramesAreJudgedInOrder : Prop :=
  ∀ (s : State) (address : BitVec 7) (code : Byte) (rest : List Byte), s.Ready →
    (∀ k : Nat, s.acknowledgesByte address k = true ↔
      (s.isOwn address = true ∨ s.isGeneral address = true) ∧ k ≤ 260) ∧
    (s.isOwn address = false → s.isGeneral address = false →
      exec (.writeFrame address (code :: rest)) s = .next s) ∧
    (s.isOwn address = true ∨ s.isGeneral address = true →
      exec (.writeFrame address []) s = .next s ∧
      (260 < rest.length + 1 ∨ rest = [] →
        exec (.writeFrame address (code :: rest)) s = .next (s.answered code .badParameter [])) ∧
      (rest.length + 1 ≤ 260 → rest ≠ [] →
        (byteSum (code :: rest) ≠ 0 →
          exec (.writeFrame address (code :: rest)) s = .next (s.answered code .checkFailed [])) ∧
        (byteSum (code :: rest) = 0 →
          (namesCommand code = false →
            exec (.writeFrame address (code :: rest)) s = .next (s.answered code .badCommand [])) ∧
          (s.isOwn address = false → code ≠ 0x32 → code ≠ 0x90 →
            exec (.writeFrame address (code :: rest)) s = .next (s.answered code .badCommand [])) ∧
          (namesCommand code = true → s.isOwn address = true ∨ code = 0x32 ∨ code = 0x90 →
            (commandOf code rest.dropLast = none →
              exec (.writeFrame address (code :: rest)) s = .next (s.answered code .badParameter [])) ∧
            ∀ i : Instr, commandOf code rest.dropLast = some i →
              ∃ t, exec (.writeFrame address (code :: rest)) s = .next t ∧ exec i s = .next t))))

/-- R149, R152, R166: for every link command, with every operand at every value its layout admits, the frame that R166
lays out, written to the part's address, completes, and leaves what that command leaves. -/
def Obligations.FrameOfACommandIsThatCommand : Prop :=
  ∀ (s : State) (address : BitVec 7) (i : Instr) (bytes : List Byte), i.wellFormed = true →
    frameOf i = some bytes → s.isOwn address = true →
    ∃ t, exec (.writeFrame address bytes) s = .next t ∧ exec i s = .next t

/-! ### The window and the tables (R155 to R160) -/

/-- R155: SET-WINDOW is judged in its order and sets the window, in every store state and while the store is locked; a
refused one leaves it; each reset clears it; no other command changes it. -/
def Obligations.WindowIsSetJudgedAndCleared : Prop :=
  (∀ (s : State) (table first last : Byte), s.Ready →
    (tableOf table = none → exec (.setWindow table first last) s = .next (s.answered 0x60 .badParameter [])) ∧
    ∀ t : Table, tableOf table = some t →
      (t.entries ≤ first.toNat →
        exec (.setWindow table first last) s = .next (s.answered 0x60 .badParameter [])) ∧
      (last.toNat < first.toNat →
        exec (.setWindow table first last) s = .next (s.answered 0x60 .badParameter [])) ∧
      (first.toNat < t.entries → first.toNat ≤ last.toNat →
        exec (.setWindow table first last) s =
          .next (({ s with lp := { s.lp with
            window := some ⟨t, first.toNat, if t.entries ≤ last.toNat then t.entries - 1 else last.toNat⟩ } } :
              State).answered 0x60 .ok []))) ∧
  (∀ (straps : BitVec 2) (s t : State), exec (.powerOnReset straps) s = .next t → t.lp.window = none) ∧
  (∀ s t : State, s.Ready → s.cs.state = .idle → exec .reset s = .next t → t.lp.window = none) ∧
  (∀ (s t : State) (d : PageDefects), s.powered = true → s.cs.state = .erasing 31 →
    exec (.erasePageErased d) s = .next t → t.lp.window = none) ∧
  ∀ (i : Instr) (s t : State), exec i s = .next t →
    (∀ a b c, i ≠ .setWindow a b c) → i ≠ .reset → (∀ straps, i ≠ .powerOnReset straps) →
    i ≠ .powerLossOrResetAsserted → (∀ d, i ≠ .erasePageErased d) → (∀ a b, i ≠ .writeFrame a b) →
    t.lp.window = s.lp.window

/-- R157, R158, R159: WRITE-STREAM is judged in its order, and each refusal changes nothing; so does a stream shorter
than one entry, which answers TRUNCATED. The complete entries within the window are those cut from its front; they are
refused unless every one is lawful by its own table, as `EntriesTaken` spells it byte by byte, and the configuration as
it would stand passes the checks of R159 that judge a write to that table, as `Passes` spells them. Otherwise the
configuration becomes what the entries give, with DEFAULT, forced, clamped and rounded fields stored as their rules say.
That a GAUGE flags byte with a bit beyond the four refuses its entry is the model's choice (log 16). -/
def Obligations.WriteStreamIsJudgedInOrder : Prop :=
  ∀ (s : State) (data : List Byte), s.Ready → 1 ≤ data.length → data.length ≤ 258 →
    (s.lp.window = none → exec (.writeStream data) s = .next (s.answered 0x61 .noWindow [])) ∧
    ∀ w : Window, s.lp.window = some w →
      (w.table.readOnly = true → exec (.writeStream data) s = .next (s.answered 0x61 .badCommand [])) ∧
      (w.table.readOnly = false → s.cs.state ≠ .idle →
        exec (.writeStream data) s = .next (s.answered 0x61 .busy [])) ∧
      (w.table.readOnly = false → s.cs.state = .idle →
        (s.cs.lock = true → exec (.writeStream data) s = .next (s.answered 0x61 .storeLocked [])) ∧
        (s.cs.lock = false → w.first ≤ w.last →
          (data.length < w.table.entryBytes →
            exec (.writeStream data) s = .next (s.answered 0x61 .truncated [])) ∧
          (w.table.entryBytes ≤ data.length → ∀ (k : Nat) (entries : List (List Byte)),
            k = min (w.last + 1 - w.first) (data.length / w.table.entryBytes) →
            entries = (List.range k).map (fun j => (data.drop (w.table.entryBytes * j)).take w.table.entryBytes) →
            ((∀ cfg, ¬ LiveConfig.EntriesTaken w.table cfg s.cfg w.first entries) →
              exec (.writeStream data) s = .next (s.answered 0x61 .invalidTable [])) ∧
            ∀ cfg, LiveConfig.EntriesTaken w.table cfg s.cfg w.first entries →
              (¬ cfg.Passes s w.table → exec (.writeStream data) s = .next (s.answered 0x61 .invalidTable [])) ∧
              (cfg.Passes s w.table → ∃ t, exec (.writeStream data) s = .next t ∧ t.cfg = cfg ∧
                t.lp.last = ⟨0x61, if w.table.entryBytes * k = data.length then .ok else .truncated, 0⟩))))

/-- R157, R160: an accepted stream replaces the entries it writes, all at once, and no other entry of any table; it
answers OK when every byte was written and TRUNCATED when some were ignored. The block that owns the table then acts on
it, and `u` is what it leaves: R27, R127 and R143 at the circuits, R60 at the bindings, R72 at the lanes, R73 and R84 at
the flasher, R89, R90 and R97 at the gauges, R131 to R133 at the supply, R61 at the inputs, with the flash clock and the
lanes after the requests that bindings move (R71, R75, R77); every block that the write does not reach stands, and so do
the circuits that no demand or duty moved by it can reach. The evaluation that was
asked for (R11, R141) and the answer follow; the attention line is formed by the mask as it now is (R162). The model's
choices in it: a sheddable circuit's grant at a kind change (log 33) and its phase sample (log 40), the shed flag at a
FAN write (logs 26 and 38), the evaluation at every BUDGET write (log 34), and R58 at a LINK write onto an unknown
ignition input (log 22). -/
def Obligations.WriteStreamReplacesItsEntriesAlone : Prop :=
  ∀ (s : State) (data : List Byte) (w : Window) (cfg : LiveConfig), s.Ready → 1 ≤ data.length → data.length ≤ 258 →
    s.lp.window = some w → w.first ≤ w.last → w.table.readOnly = false → s.cs.state = .idle → s.cs.lock = false →
    w.table.entryBytes ≤ data.length → s.cfg.writeEntries w.table w.first (w.cut data) = some cfg →
    cfg.accepts s.occupied w.table = true →
    ∃ t u k, exec (.writeStream data) s = .next t ∧
      k = min (w.last + 1 - w.first) (data.length / w.table.entryBytes) ∧ t.cfg = cfg ∧
      (∀ (table : Table) (n : Nat), n < table.entries → table ≠ w.table ∨ n < w.first ∨ w.first + k ≤ n →
        cfg.entryBytes table n = s.cfg.entryBytes table n) ∧
      (∀ j, j < k → ∃ one, s.cfg.writeEntry w.table (w.first + j)
          ((data.drop (w.table.entryBytes * j)).take w.table.entryBytes) = some one ∧
        cfg.entryBytes w.table (w.first + j) = one.entryBytes w.table (w.first + j)) ∧
      t.lp.last = ⟨0x61, if w.table.entryBytes * k = data.length then .ok else .truncated, 0⟩ ∧
      t.lp.response = some (responseBytes t.lp.last.result []) ∧
      t.lp.window = s.lp.window ∧ t.lp.straps = s.lp.straps ∧ t.cs = s.cs ∧ t.now = s.now ∧
      t.pending = s.pending ∧ t.fu.wireLow = s.fu.wireLow ∧
      t = (u.restartSleep.settle).answer 0x61 ⟨t.lp.last.result, [], 0⟩ ∧ u.cfg = cfg ∧
      (w.table = .circuit → s.CircuitsApplied u) ∧
      (w.table = .binding → s.BindingsApplied u) ∧
      (w.table = .lane → s.LanesApplied u) ∧
      (w.table = .flash → u = { s with
        cfg := cfg
        fu := if s.cfg.flash.tick = cfg.flash.tick then s.fu
          else { s.fu with
            tick := decide (cfg.flash.tick = .follow ∧ s.fu.clock = .on), tickDue := none } }) ∧
      (w.table = .gauge ∨ (∃ g, w.table = .sender g) ∨ (∃ g, w.table = .drive g) → s.GaugesApplied u) ∧
      (w.table = .fan → s.StepsApplied u) ∧
      (w.table = .budget → s.BudgetApplied u) ∧
      (w.table = .link → s.LinkApplied u) ∧
      (t.attentionLow = true ↔ ∃ c : Status, t.isPending c = true ∧ cfg.link.mask.getLsbD c.member = true)

/-! ### Status (R161 to R164) -/

/-- R164: ACK-STATUS with a member beyond the twelve is refused; otherwise the named conditions leave the pending set,
the rest stay and the attention line is formed anew. Taken before a raising of a named condition it leaves that
condition pending, taken after it clears it. -/
def Obligations.AckStatusClearsTheNamedConditions : Prop :=
  ∀ (s : State) (conditions : Half), s.Ready →
    (4096 ≤ conditions.toNat → exec (.ackStatus conditions) s = .next (s.answered 0x71 .badParameter [])) ∧
    (conditions.toNat < 4096 →
      ∃ t, exec (.ackStatus conditions) s = .next t ∧
        t = ({ s with lp := { s.lp with pending := t.lp.pending } } : State).answered 0x71 .ok [] ∧
        (∀ c : Status, t.isPending c = (s.isPending c && !conditions.getLsbD c.member)) ∧
        (t.attentionLow = true ↔ ∃ c : Status, t.isPending c = true ∧ s.cfg.link.mask.getLsbD c.member = true) ∧
        ∀ c : Status, conditions.getLsbD c.member = true →
          (t.raise c).isPending c = true ∧
          (s.cfg.link.mask.getLsbD c.member = true → (t.raise c).attentionLow = true) ∧
          ∃ u, exec (.ackStatus conditions) (s.raise c) = .next u ∧ u.isPending c = false)

/-! ### The store and the part (R154, R169 to R172, R175) -/

/-- R169 to R172: SAVE, LOCK-STORE and ERASE-STORE are judged in their order; a SAVE or LOCK-STORE accepted puts the
image of the live configuration, with its lock byte, in the program buffer, and an ERASE-STORE, which the lock flag
does not refuse, puts page 0 in hand; nothing else moves yet. -/
def Obligations.StoreCommandsAreJudgedInOrder : Prop :=
  ∀ s : State, s.Ready →
    (s.cs.state ≠ .idle → exec .save s = .next (s.answered 0x80 .busy []) ∧
      exec .lockStore s = .next (s.answered 0x81 .busy [])) ∧
    (s.cs.state = .idle → s.cs.lock = true → exec .save s = .next (s.answered 0x80 .storeLocked []) ∧
      exec .lockStore s = .next (s.answered 0x81 .storeLocked [])) ∧
    (s.cs.state = .idle → s.cs.lock = false →
      exec .save s = .next (({ s with cs := { s.cs with
        state := .saving 0, buffer := some (imageOf false s.cfg) } } : State).answered 0x80 .ok []) ∧
      exec .lockStore s = .next (({ s with cs := { s.cs with
        state := .saving 0, buffer := some (imageOf true s.cfg) } } : State).answered 0x81 .ok [])) ∧
    (s.cs.state ≠ .idle → exec .eraseStore s = .next (s.answered 0x82 .busy [])) ∧
    (s.cs.state = .idle → s.sbu.power = .run → exec .eraseStore s = .next (s.answered 0x82 .wrongState [])) ∧
    (s.cs.state = .idle → s.sbu.power ≠ .run →
      exec .eraseStore s = .next (({ s with cs := { s.cs with state := .erasing 0 } } : State).answered 0x82 .ok []))

/-- R154, R165, R175: RESET is refused with BUSY while the store is at work; otherwise the part resets, keeping the
configuration, the lock flag, the debounced levels and the straps, and the ignition state is taken from its kept
level. With the ignition ON or OFF, every block then stands at its reset values but for what the ignition and the first
evaluations bring (R23, R45, R64, R86, R105, R145), as `Restarted` spells it. The first sense sample 5 ms later is log
19. -/
def Obligations.ResetKeepsConfigurationAndLevels : Prop :=
  ∀ s : State, s.Ready →
    (s.cs.state ≠ .idle → exec .reset s = .next (s.answered 0x90 .busy [])) ∧
    (s.cs.state = .idle →
      ∃ t, exec .reset s = .next t ∧ t.cfg = s.cfg ∧ t.cs = { s.cs with buffer := none } ∧
        (∀ i : InputId, t.ibu.inputs[i] = { s.ibu.inputs[i] with counter := 0 }) ∧
        t.ibu.ignition = decide (s.inputActive s.cfg.link.ignition = some true) ∧
        t.sbu.power = (if t.ibu.ignition then .run else .parked) ∧
        (∀ g : ChannelId, (t.ge[g]).state =
          (if (s.cfg.gauges[g]).enable then (if t.ibu.ignition then .settling else .off) else .disabled)) ∧
        (∀ (slot : SlotId) (d : Demand), (t.dt.slots[slot]).demand = some d → d.source ≠ .host) ∧
        t.dt.hostCount = 0 ∧ t.fu.host = none ∧
        (∀ n : BindingId, (s.cfg.bindings[n]).enable = false → t.ibu.bindings[n] = ⟨.notEvaluated, .none⟩) ∧
        ((∀ n : BindingId, (s.cfg.bindings[n]).enable = false) → t.ibu.ignition = false →
          t.BlocksAtReset ∧ t.lp.pending = 0) ∧ t.Restarted ∧
        t.lp.window = none ∧ t.lp.straps = s.lp.straps ∧ t.lp.last = ⟨0x90, .ok, 0⟩ ∧
        t.lp.response = some (responseBytes .ok []) ∧
        t.now = s.now ∧ t.pending = s.pending ∧ t.powered = true ∧ t.fu.wireLow = s.fu.wireLow)

/-! ### Circuits (R28 to R43, R120 to R126) -/

/-- R43: CLEAR-FAULT clears the lamp-out flag and the confirmation counter, and in LOCKED releases the circuit: OFF
with trip count 0 and no time of last trip, and a start at once if its granted level stands above 0. -/
def Obligations.ClearFaultActsByTheState : Prop :=
  ∀ (s : State) (b : Byte), s.Ready →
    (15 < b.toNat → exec (.clearFault b) s = .next (s.answered 0x21 .badParameter [])) ∧
    ∀ (c : CircuitId) (cleared released : Circuit), b.toNat = c.val →
      cleared = { s.cc[c] with lampOut := false, confirm := 0 } →
      released = { cleared with state := .off, trips := 0, lastTrip := none, quietDue := none } →
      ((s.cfg.circuits[c]).kind = .none → exec (.clearFault b) s = .next (s.answered 0x21 .wrongKind [])) ∧
      ((s.cfg.circuits[c]).kind ≠ .none →
        ((s.cc[c]).state ≠ .locked →
          exec (.clearFault b) s = .next (({ s with cc := s.cc.set c cleared } : State).answered 0x21 .ok [])) ∧
        ((s.cc[c]).state = .locked → (s.cc[c]).granted = 0 →
          exec (.clearFault b) s = .next (({ s with cc := s.cc.set c released } : State).answered 0x21 .ok [])) ∧
        ((s.cc[c]).state = .locked → 0 < (s.cc[c]).granted → (s.cc[c]).applied = 0 → 0 < s.cfg.fan.start →
          exec (.clearFault b) s = .next (({ s with
            cc := s.cc.set c (released.started s.cfg.circuits[c] s.cfg.fan s.now) } : State).answered 0x21 .ok [])))

/-- R31, R34, R126: the end of the inrush time brings a STARTING circuit to ON with its level unchanged; the end of a
retry delay starts a circuit whose granted level stands above 0 and sends another to OFF, its trips standing. -/
def Obligations.InrushAndRetryTimersRunOut : Prop :=
  ∀ (s : State) (c : CircuitId) (due : Nat), s.powered = true → s.evaluate = false → due ≤ s.now →
    ((s.cc[c]).state = .starting → (s.cc[c]).inrushDue = some due →
      exec (.inrushExpiry c) s = .next ({ s with
        cc := s.cc.set c { s.cc[c] with state := .on, inrushDue := none } } : State).formed) ∧
    ((s.cc[c]).state = .retryWait → (s.cc[c]).retryDue = some due →
      ((s.cc[c]).granted = 0 →
        exec (.retryExpiry c) s = .next ({ s with
          cc := s.cc.set c { s.cc[c] with state := .off, retryDue := none } } : State).formed) ∧
      (0 < (s.cc[c]).granted → (s.cc[c]).applied = 0 → 0 < s.cfg.fan.start →
        exec (.retryExpiry c) s = .next ({ s with
          cc := s.cc.set c (({ s.cc[c] with state := .off, retryDue := none } : Circuit).started
            s.cfg.circuits[c] s.cfg.fan s.now) } : State).formed))

/-- R36: the trip count returns to 0 when 10 s pass from the last trip, each trip and each stall restarting them; the
time of last trip stays, and in LOCKED the count stays. -/
def Obligations.QuietTimeClearsTheTripCount : Prop :=
  (∀ (s : State) (c : CircuitId) (due : Nat), s.powered = true → s.evaluate = false →
    (s.cc[c]).quietDue = some due → due ≤ s.now →
    exec (.quietTimeExpiry c) s = .next ({ s with
      cc := s.cc.set c { s.cc[c] with
        trips := if (s.cc[c]).state = .locked then (s.cc[c]).trips else 0
        quietDue := none } } : State).formed) ∧
  ∀ (s t : State) (c : CircuitId) (mean : Nat), s.powered = true → s.evaluate = false →
    exec (.currentMeasurement c mean) s = .next t → (t.cc[c]).trips ≠ (s.cc[c]).trips ∨
      (t.cc[c]).lastTrip ≠ (s.cc[c]).lastTrip →
    (t.cc[c]).lastTrip = some s.now ∧ (t.cc[c]).quietDue = some (s.now + 10000)

/-- R121: at each ramp step the applied level rises by the ramp rate, capped at the granted level; the step that
reaches it sends the fan to RUNNING and stops the schedule, and another is followed by a step 100 ms later. -/
def Obligations.RampStepClimbsToTheGrantedLevel : Prop :=
  ∀ (s : State) (c : CircuitId) (due : Nat), s.powered = true → s.evaluate = false →
    (s.cc[c]).state = .ramp → (s.cc[c]).rampDue = some due → due ≤ s.now → 0 < (s.cc[c]).applied →
    (s.cc[c]).applied < (s.cc[c]).granted →
    ((s.cc[c]).granted ≤ (s.cc[c]).applied + s.cfg.fan.rate →
      exec (.rampStep c) s = .next ({ s with
        cc := s.cc.set c { s.cc[c] with
          state := .running, applied := (s.cc[c]).granted, rampDue := none } } : State).formed) ∧
    ((s.cc[c]).applied + s.cfg.fan.rate < (s.cc[c]).granted →
      exec (.rampStep c) s = .next ({ s with
        cc := s.cc.set c { s.cc[c] with
          applied := (s.cc[c]).applied + s.cfg.fan.rate, rampDue := some (s.now + 100) } } : State).formed)

/-- R31 to R33, R123: a measurement above the trip limit of the circuit's state cuts the circuit, counts the trip and
sends it to RETRY-WAIT for 250 ms times 2 to the power of the count less one, at most 4000 ms, or, at its retry limit,
to LOCKED with CIRCUIT-LOCKED raised. The confirmation counter restarts (R42); that it does so for a trip in STARTING
too is the model's choice (log 18). -/
def Obligations.TripCutsTheCircuit : Prop :=
  ∀ (s : State) (c : CircuitId) (mean due limit : Nat), s.powered = true → s.evaluate = false →
    (s.cc[c]).measureDue = some due → due ≤ s.now → 0 < (s.cc[c]).applied →
    limit = (if (s.cfg.circuits[c]).trip = 0 then 2 * (s.cfg.circuits[c]).rated else (s.cfg.circuits[c]).trip) *
      (if (s.cc[c]).state = .starting then (s.cfg.circuits[c]).inrushFactor else 1) →
    limit < min mean 4095 →
    exec (.currentMeasurement c mean) s = .next ({ s with
      cc := s.cc.set c ((s.cc[c]).faulted s.cfg.circuits[c] s.now
        (min 4000 (250 * 2 ^ (min 7 ((s.cc[c]).trips + 1) - 1))))
      lp := s.lp.raiseIf .circuitLocked
        (decide ((s.cfg.circuits[c]).retryLimit ≤ (s.cc[c]).trips ∧ (s.cc[c]).state ≠ .locked)) } : State).formed

/-- R37 to R41: a circuit at applied level 0, so in OFF, RETRY-WAIT and LOCKED by R29, is not measured, whatever its
kind, and nor is one whose moment has not come (log 3). A measurement that trips nothing is recorded and the next falls
20 ms later; on a lamp in ON it is judged for lamp-out when it counts, against 15 judgements in STEADY mode and 2 in
FLASHING mode, and LAMP-OUT is raised when the flag is set. The phase sample is the first measurement in ON of the
phase (log 11). -/
def Obligations.MeasurementJudgesTheLamp : Prop :=
  (∀ (s : State) (c : CircuitId) (mean : Nat),
    (s.cc[c]).applied = 0 ∨ (∀ due, (s.cc[c]).measureDue = some due → s.now < due) →
    exec (.currentMeasurement c mean) s = .next s) ∧
  (∀ (s : State) (c : CircuitId) (mean : Nat), Circuit.Lawful s.cfg.circuits[c] s.cc[c] →
    (s.cc[c]).state = .off ∨ (s.cc[c]).state = .retryWait ∨ (s.cc[c]).state = .locked →
    exec (.currentMeasurement c mean) s = .next s) ∧
  ∀ (s : State) (c : CircuitId) (mean due : Nat) (low : Bool) (r : Circuit),
    s.powered = true → s.evaluate = false → (s.cc[c]).measureDue = some due → due ≤ s.now → 0 < (s.cc[c]).applied →
    (s.cfg.circuits[c]).kind ≠ .motor →
    min mean 4095 ≤ (if (s.cfg.circuits[c]).trip = 0 then 2 * (s.cfg.circuits[c]).rated else (s.cfg.circuits[c]).trip) *
      (if (s.cc[c]).state = .starting then (s.cfg.circuits[c]).inrushFactor else 1) →
    r = { s.cc[c] with current := min mean 4095, measureDue := some (s.now + 20) } →
    low = decide (min mean 4095 * 100 < (s.cfg.circuits[c]).lampOut *
      (((s.cfg.circuits[c]).rated * (s.cc[c]).applied + 999) / 1000)) →
    ((s.cfg.circuits[c]).kind.isLamp = false ∨ (s.cc[c]).state ≠ .on →
      exec (.currentMeasurement c mean) s = .next ({ s with cc := s.cc.set c r } : State).formed) ∧
    ((s.cfg.circuits[c]).kind.isLamp = true → (s.cc[c]).state = .on →
      (((s.cc[c]).flashing = true ∧ (s.cc[c]).sampled = true) ∨ (s.cc[c]).applied < 500 →
        exec (.currentMeasurement c mean) s =
          .next ({ s with cc := s.cc.set c { r with sampled := true } } : State).formed) ∧
      ((s.cc[c]).flashing = false ∨ (s.cc[c]).sampled = false → 500 ≤ (s.cc[c]).applied →
        (low = (s.cc[c]).lampOut →
          exec (.currentMeasurement c mean) s =
            .next ({ s with cc := s.cc.set c { r with sampled := true, confirm := 0 } } : State).formed) ∧
        (low ≠ (s.cc[c]).lampOut →
          ((s.cc[c]).confirm + 1 < (if (s.cc[c]).flashing then 2 else 15) →
            exec (.currentMeasurement c mean) s = .next ({ s with
              cc := s.cc.set c { r with sampled := true, confirm := (s.cc[c]).confirm + 1 } } : State).formed) ∧
          ((if (s.cc[c]).flashing then 2 else 15) ≤ (s.cc[c]).confirm + 1 →
            exec (.currentMeasurement c mean) s = .next ({ s with
              cc := s.cc.set c { r with sampled := true, lampOut := low, confirm := 0 }
              lp := s.lp.raiseIf .lampOut low } : State).formed))))

/-- R123 to R125: a measurement of the fan that trips nothing, in whatever state it is driven, is recorded and tested for
a stall while the applied level stands at or above the start level; the 25th reading in a row above the stall current
cuts the fan with a retry delay of 3000 ms. That the start level is the live one, a FAN write while the fan turns
included, is the model's choice (log 42). -/
def Obligations.StallCutsTheFanAtTheTwentyFifthReading : Prop :=
  ∀ (s : State) (c : CircuitId) (mean due : Nat) (r : Circuit),
    s.powered = true → s.evaluate = false → (s.cc[c]).measureDue = some due → due ≤ s.now → 0 < (s.cc[c]).applied →
    (s.cfg.circuits[c]).kind = .motor →
    min mean 4095 ≤ (if (s.cfg.circuits[c]).trip = 0 then 2 * (s.cfg.circuits[c]).rated else (s.cfg.circuits[c]).trip) *
      (if (s.cc[c]).state = .starting then (s.cfg.circuits[c]).inrushFactor else 1) →
    r = { s.cc[c] with current := min mean 4095, measureDue := some (s.now + 20) } →
    (s.cfg.fan.stall = 0 ∨ (s.cc[c]).applied < s.cfg.fan.start ∨ min mean 4095 ≤ s.cfg.fan.stall →
      exec (.currentMeasurement c mean) s = .next ({ s with cc := s.cc.set c { r with stall := 0 } } : State).formed) ∧
    (s.cfg.fan.stall ≠ 0 → s.cfg.fan.start ≤ (s.cc[c]).applied → s.cfg.fan.stall < min mean 4095 →
      ((s.cc[c]).stall + 1 < 25 →
        exec (.currentMeasurement c mean) s =
          .next ({ s with cc := s.cc.set c { r with stall := (s.cc[c]).stall + 1 } } : State).formed) ∧
      (25 ≤ (s.cc[c]).stall + 1 →
        exec (.currentMeasurement c mean) s = .next ({ s with
          cc := s.cc.set c ((s.cc[c]).faulted s.cfg.circuits[c] s.now 3000)
          lp := s.lp.raiseIf .circuitLocked
            (decide ((s.cfg.circuits[c]).retryLimit ≤ (s.cc[c]).trips ∧ (s.cc[c]).state ≠ .locked)) } :
            State).formed))

/-! ### Direction signals and the lamp test (R65 to R84, R153) -/

/-- R67, R71, R75, R78: FLASH is refused on a code or count out of range; otherwise the host's request is placed or
replaced, the clock starts if it stood IDLE and otherwise stands, and the lanes' demands follow their coverage, each
member of a lane that gained or lost it resolved anew. (Lanes and clock are taken in the order of log 4.) -/
def Obligations.FlashPlacesTheHostsRequest : Prop :=
  ∀ (s : State) (lanes count : Byte), s.Ready →
    (2 < lanes.toNat ∨ 15 < count.toNat →
      exec (.flash lanes count) s = .next (s.answered 0x30 .badParameter [])) ∧
    (lanes.toNat ≤ 2 → count.toNat ≤ 15 →
      ∃ t l, exec (.flash lanes count) s = .next t ∧
        t.fu.host = some ⟨l, if count = 0 then none else some count.toNat⟩ ∧
        (lanes = 0 → l = .left) ∧ (lanes = 1 → l = .right) ∧ (lanes = 2 → l = .both) ∧
        (s.fu.clock ≠ .idle → t.fu = { s.fu with host := t.fu.host }) ∧
        (s.fu.clock = .idle → t.fu.synced = s.cfg.flash.sync ∧
          (s.cfg.flash.sync = true ∧ s.fu.wireLow = true → t.fu.clock = .waitSync ∧ t.fu.waitDue = some (s.now + 2000)) ∧
          (s.cfg.flash.sync = false ∨ s.fu.wireLow = false → t.fu.clock = .on ∧
            t.fu.phaseDue = some (s.now + t.phaseTime s.cfg.flash.onTime))) ∧
        (s.dt.Lawful → s.LanesStand → (∀ side, (s.cfg.lane side).members.length ≤ 4) →
          8 ≤ (allSlots.filter (fun i =>
            ((s.dt.slots[i]).demand).all (fun d => decide (d.source = .lane .left ∨ d.source = .lane .right)))).length →
          t.LanesStand ∧
          ∀ (side : Side) (c : CircuitId), s.fu.covers side ≠ t.fu.covers side → c ∈ (s.cfg.lane side).members →
            (s.cfg.circuits[c]).kind.takesDemands = true →
            t.dt.res[c] = t.resolution c ∧ (s.InStep c → t.InStep c)) ∧
        t.lp.last = ⟨0x30, .ok, 0⟩ ∧ t.lp.response = some (responseBytes .ok []) ∧ s.SignalFrame t)

/-- R68, R71, R77, R78: FLASH-STOP retires the host's request and answers OK whether or not it held one; with none it
changes nothing but the last result and the response. Binding requests stand, and a lane they cover goes on flashing; a
lane that lost its coverage loses its demands, each of its members resolved anew; with no request left the clock goes
to IDLE. (Lanes and clock are taken in the order of log 4.) -/
def Obligations.FlashStopRetiresTheHostsRequest : Prop :=
  ∀ s : State, s.Ready →
    (s.fu.host = none → exec .flashStop s = .next (s.answered 0x31 .ok [])) ∧
    (s.fu.host ≠ none →
      ∃ t, exec .flashStop s = .next t ∧ t.fu.host = none ∧ t.fu.requests = s.fu.requests ∧
        (s.fu.clock ≠ .idle → (∃ n : BindingId, s.fu.requests[n] ≠ none) →
          t.fu = { s.fu with host := none } ∧
          (∀ (slot : SlotId) (d : Demand) (side : Side) (n : BindingId) (l : LaneSet),
            (s.dt.slots[slot]).demand = some d → d.source = .lane side → s.fu.requests[n] = some l →
            l.covers side = true → t.dt.slots[slot] = s.dt.slots[slot])) ∧
        ((∀ n : BindingId, s.fu.requests[n] = none) → t.fu.clock = .idle ∧ (s.fu.clock ≠ .idle →
          t.fu.phaseDue = none ∧ t.fu.waitDue = none ∧ t.fu.pull = false ∧ t.fu.abandoned = false)) ∧
        (s.dt.Lawful → s.LanesStand → t.LanesStand ∧
          ∀ (side : Side) (c : CircuitId), s.fu.covers side ≠ t.fu.covers side → c ∈ (s.cfg.lane side).members →
            (s.cfg.circuits[c]).kind.takesDemands = true →
            t.dt.res[c] = t.resolution c ∧ (s.InStep c → t.InStep c)) ∧
        t.lp.last = ⟨0x31, .ok, 0⟩ ∧ t.lp.response = some (responseBytes .ok []) ∧ s.SignalFrame t)

/-- R153: LAMP-TEST places a lamp-test demand on every participant, or restarts the hold of the one that stands there,
and touches no other demand; each participant is resolved anew. A duration out of range is refused. -/
def Obligations.LampTestLightsEveryParticipant : Prop :=
  ∀ (s : State) (duration : Byte), s.Ready →
    (duration = 0 ∨ 50 < duration.toNat → exec (.lampTest duration) s = .next (s.answered 0x32 .badParameter [])) ∧
    (duration ≠ 0 → duration.toNat ≤ 50 →
      ∃ t, exec (.lampTest duration) s = .next t ∧
        (∀ (slot : SlotId) (d : Demand), (s.dt.slots[slot]).demand = some d → d.source ≠ .test →
          t.dt.slots[slot] = s.dt.slots[slot]) ∧
        (s.dt.Lawful → 16 ≤ (allSlots.filter (fun i =>
            ((s.dt.slots[i]).demand).all (fun d => decide (d.source = .test)))).length →
          (∀ (slot : SlotId) (d : Demand), (s.dt.slots[slot]).demand = some d → d.source = .test →
            d.intent = .on ∧ d.gated = false) →
          ∀ c : CircuitId, (s.cfg.circuits[c]).lampTest = true →
            ∃ slot : SlotId, (t.dt.slots[slot]).demand =
                some ⟨c, .test, .on, some 1000, 14, some (s.now + 100 * duration.toNat), false⟩ ∧
              (∀ (i : SlotId) (d : Demand), (s.dt.slots[i]).demand = some d → d.source = .test → d.circuit = c →
                slot = i ∧ (t.dt.slots[i]).tag = (s.dt.slots[i]).tag) ∧
              slot ∈ t.dt.lists[c] ∧
              ((s.cfg.circuits[c]).kind.takesDemands = true →
                t.dt.res[c] = t.resolution c ∧ (s.InStep c → t.InStep c))) ∧
        t.dt.hostCount = s.dt.hostCount ∧ t.lp.last = ⟨0x32, .ok, 0⟩ ∧
        t.lp.response = some (responseBytes .ok []) ∧
        s.DemandFrame (fun c => (s.cfg.circuits[c]).lampTest = true) t)

/-- R69, R76, R82: the ON phase ends when its timer runs out, or, on a synced clock, when the line falls: the clock
enters OFF for its full length, the lanes go dark, and the host's count is lowered once, a count that reaches 0
retiring the request. (Where a retired request also stops the clock, the order of the two is log 4. Where the fall and
the timer come together, the level of the line last read differs with the one taken first: log 41.) -/
def Obligations.OnPhaseEndsByTimerOrByTheLine : Prop :=
  ∀ s : State, s.powered = true → s.evaluate = false → s.fu.clock = .on →
    (∀ due, s.fu.phaseDue = some due → due ≤ s.now →
      ∃ t, exec .onPhaseExpiry s = .next t ∧ s.EndsOn t) ∧
    (s.fu.synced = true → s.fu.wireLow = false →
      ∃ t, exec .syncLineFall s = .next t ∧
        ({ s with fu := { s.fu with wireLow := true, lineRead := false } } : State).EndsOn t)

/-- R77, R81, R83, R84: when the OFF phase runs out a free clock enters ON; a synced one reads the line and enters ON,
or WAIT-SYNC for at most 2000 ms while it reads low; the rise of the line then brings it to ON, and so does the
timeout, which raises SYNC-FAULT and abandons sync. A rise or a fall in any other state only moves the wire (log 6). A
tick pulse ends with TICK low. That the fast-flash mark stands in WAIT-SYNC is the model's choice (log 15). -/
def Obligations.OffPhaseWaitsForTheLineOrItsTimeout : Prop :=
  ∀ s : State, s.powered = true → s.evaluate = false →
    (∀ due, s.fu.clock = .off → s.fu.phaseDue = some due → due ≤ s.now →
      (s.fu.synced = false → ∃ t, exec .offPhaseExpiry s = .next t ∧ s.EntersOn t) ∧
      (s.fu.synced = true → s.fu.wireLow = false →
        ∃ t, exec .offPhaseExpiry s = .next t ∧ ({ s with fu := { s.fu with lineRead := true } } : State).EntersOn t) ∧
      (s.fu.synced = true → s.fu.wireLow = true →
        exec .offPhaseExpiry s = .next ({ s with
          fu := { s.fu with
            clock := .waitSync
            phaseDue := none
            waitDue := some (s.now + 2000)
            pull := false
            lineRead := false
            tick := if s.cfg.flash.tick = .follow then false else s.fu.tick } } : State).formed)) ∧
    (s.fu.clock = .waitSync → s.fu.synced = true → s.fu.wireLow = true →
      ∃ t, exec .syncLineRise s = .next t ∧
        ({ s with fu := { s.fu with wireLow := false, lineRead := true } } : State).EntersOn t) ∧
    (s.fu.clock ≠ .waitSync ∨ s.fu.synced = false → s.fu.wireLow = true →
      exec .syncLineRise s = .next { s with fu := { s.fu with
        wireLow := false, lineRead := if s.fu.synced = true ∧ s.fu.clock = .on then true else s.fu.lineRead } }) ∧
    (s.fu.clock ≠ .on ∨ s.fu.synced = false → s.fu.wireLow = false →
      exec .syncLineFall s = .next { s with fu := { s.fu with
        wireLow := true, lineRead := if s.fu.synced = true ∧ s.fu.clock = .waitSync then false else s.fu.lineRead } }) ∧
    (∀ due, due ≤ s.now → s.fu.clock = .waitSync → s.fu.waitDue = some due →
      ∃ t, exec .waitSyncTimeout s = .next t ∧
        ({ s with
          fu := { s.fu with synced := false, abandoned := true }
          lp := s.lp.raiseIf .syncFault true } : State).EntersOn t) ∧
    (∀ due, due ≤ s.now → s.fu.tickDue = some due →
      exec .tickPulseEnd s = .next ({ s with fu := { s.fu with tick := false, tickDue := none } } : State).formed)

/-! ### Inputs and bindings (R47 to R59) -/

/-- R47, R48, R50: a sample moves each input's counter and level, a known one by R47 and an UNKNOWN one by R48; the
ignition state is then that of its input. A change of it brings RUN and SETTLING, or PARKED, OFF and no gated demand
(R20, R92, R96, R134); with no debounced change nothing else moves. Each binding that reads a changed input, and each
gated one when the ignition input changed, is evaluated once (R47, R52, R59), and a gated one at ignition off is FALSE
and holds nothing (R58); the flash requests follow (R56). What the bindings then do is `SampleTaken`: a demand placed
in the record of R53, refreshed by R55 or retired, its circuit resolved anew; the flash clock and the lanes follow the
requests (R71, R75, R77); every other demand, list, resolution, circuit, channel and timer stands. -/
def Obligations.SenseSampleDebouncesEveryInput : Prop :=
  ∀ (s : State) (levels : BitVec 12) (due : Nat), s.powered = true → s.evaluate = false →
    s.ibu.sampleDue = some due → due ≤ s.now →
    ∃ t, exec (.senseSample levels) s = .next t ∧ t.ibu.sampleDue = some (s.now + 5) ∧
      (∀ (i : InputId) (pin : Bool), pin = levels.getLsbD i.val →
        (∀ l, (s.ibu.inputs[i]).level = some l →
          (pin = l → t.ibu.inputs[i] = { s.ibu.inputs[i] with counter := 0 }) ∧
          (pin ≠ l → s.cfg.link.debounce ≤ (s.ibu.inputs[i]).counter + 1 → t.ibu.inputs[i] = ⟨some pin, none, 0⟩) ∧
          (pin ≠ l → (s.ibu.inputs[i]).counter + 1 < s.cfg.link.debounce →
            t.ibu.inputs[i] = { s.ibu.inputs[i] with counter := (s.ibu.inputs[i]).counter + 1 })) ∧
        (∀ k, (s.ibu.inputs[i]).level = none →
          k = (if (s.ibu.inputs[i]).last = some pin then (s.ibu.inputs[i]).counter + 1 else 1) →
          (s.cfg.link.debounce ≤ k → t.ibu.inputs[i] = ⟨some pin, none, 0⟩) ∧
          (k < s.cfg.link.debounce → t.ibu.inputs[i] = ⟨none, some pin, k⟩))) ∧
      ((∀ i : InputId, (t.ibu.inputs[i]).level = (s.ibu.inputs[i]).level) →
        t = ({ s with ibu := { s.ibu with
          inputs := t.ibu.inputs, sampleDue := some (s.now + 5) } } : State).formed) ∧
      ((∃ i : InputId, (t.ibu.inputs[i]).level ≠ (s.ibu.inputs[i]).level) →
        (t.ibu.ignition = true ↔
          (t.ibu.inputs[s.cfg.link.ignition]).level = some (s.cfg.link.activeHigh.getLsbD s.cfg.link.ignition.val))) ∧
      (s.ibu.ignition = false → t.ibu.ignition = true → t.sbu.power = .run ∧
        ∀ g : ChannelId, (s.ge[g]).state = .off → (t.ge[g]).state = .settling) ∧
      (s.ibu.ignition = true → t.ibu.ignition = false → t.sbu.power = .parked ∧
        (∀ g : ChannelId, (t.ge[g]).state = .off ∨ (t.ge[g]).state = .disabled) ∧
        (∀ (slot : SlotId) (d : Demand), (t.dt.slots[slot]).demand = some d → d.gated = false)) ∧
      (∀ (n : BindingId) (b : BindingCfg) (touched : Prop), b = s.cfg.bindings[n] →
        (touched ↔ ∃ i : InputId, (t.ibu.inputs[i]).level ≠ (s.ibu.inputs[i]).level ∧
          (b.primary = i ∨ b.second = some i ∨ (b.gated = true ∧ s.cfg.link.ignition = i))) →
        (t.ibu.ignition = s.ibu.ignition ∨ t.ibu.ignition = true →
          (touched → t.Evaluates b s.ibu.bindings[n] t.ibu.bindings[n]) ∧
          (¬ touched → t.ibu.bindings[n] = s.ibu.bindings[n])) ∧
        (s.ibu.ignition = true → t.ibu.ignition = false →
          (b.gated = true → b.enable = true → touched → (s.ibu.bindings[n]).cond ≠ .notEvaluated ∨ t.Known b →
            t.ibu.bindings[n] = ⟨.false, .none⟩) ∧
          (b.gated = false → (∀ (slot : SlotId) (d : Demand), (s.dt.slots[slot]).demand = some d →
              d.source = .binding n → d.gated = false) →
            (touched → t.Evaluates b s.ibu.bindings[n] t.ibu.bindings[n]) ∧
            (¬ touched → t.ibu.bindings[n] = s.ibu.bindings[n])))) ∧
      s.RequestsFollow t ∧ ((∃ i : InputId, (t.ibu.inputs[i]).level ≠ (s.ibu.inputs[i]).level) → s.SampleTaken t) ∧
      t.cfg = s.cfg ∧ t.cs = s.cs ∧ t.now = s.now ∧ t.pending = s.pending ∧ t.powered = true ∧
      t.lp = { s.lp with pending := t.lp.pending } ∧ t.fu.host = s.fu.host ∧ t.fu.wireLow = s.fu.wireLow

/-- R52 to R56: an evaluation of a binding that moves its condition acts by its action: the held item that the action
gives, the demand or the flash request placed, or what was held given up; one that does not move it, or cannot be
made, does nothing. -/
def Obligations.BindingsActByTheirActions : Prop :=
  ∀ (s : State) (n : BindingId) (b : BindingCfg) (old : BindingState) (holds edge : Bool),
    b = s.cfg.bindings[n] → old = s.ibu.bindings[n] →
    (holds = true ↔ s.inputActive b.primary = some b.primaryActive ∧
      (∀ i, b.second = some i → s.inputActive i = some b.secondActive) ∧ (b.gated = true → s.ibu.ignition = true)) →
    edge = (decide (old.cond = .false) && holds) →
    (b.enable = false ∨ ¬ s.Known b ∨ old.cond = (if holds then Condition.true else Condition.false) →
      s.evaluateBinding n = s) ∧
    (b.enable = true → s.Known b → old.cond ≠ (if holds then Condition.true else Condition.false) →
      ∃ t, s.evaluateBinding n = t ∧
        t.ibu.bindings[n] =
          ⟨if holds then Condition.true else Condition.false, b.action.heldAfter edge holds old.held⟩ ∧
        (∀ m : BindingId, m ≠ n → t.ibu.bindings[m] = s.ibu.bindings[m]) ∧
        t.ibu = { s.ibu with bindings := t.ibu.bindings } ∧
        (b.action.atEdge = true → edge = false → t = { s with ibu := { s.ibu with bindings := t.ibu.bindings } }) ∧
        (∀ c : CircuitId, b.action.circuit? = some c → b.action.atEdge = false ∨ edge = true →
          b.action.heldAfter edge holds old.held = .demand →
          (s.dt.keyed (.binding n) c = none → ∀ slot, s.dt.freeSlot = some slot →
            (t.dt.slots[slot]).demand = some ⟨c, .binding n, .on, some b.level, b.priority,
              (if b.action = .timed c then some (s.now + 100 * b.hold) else none), b.gated⟩) ∧
          (∀ (slot : SlotId) (d : Demand), s.dt.keyed (.binding n) c = some (slot, d) → d.circuit = c →
            t.dt.slots[slot] = ⟨(s.dt.slots[slot]).tag, some { d with
              level := some b.level
              priority := b.priority
              expiry := if b.action = .timed c then some (s.now + 100 * b.hold) else none }⟩)) ∧
        (∀ lanes : LaneSet, b.action = .flashWhile lanes ∨ b.action = .flashToggle lanes →
          b.action.atEdge = false ∨ edge = true → b.action.heldAfter edge holds old.held = .request →
          t.fu.requests[n] = some lanes) ∧
        (b.action.heldAfter edge holds old.held = .none →
          (old.held = .demand → ∀ (slot : SlotId) (d : Demand), s.dt.keyed (.binding n) 0 = some (slot, d) →
            t.dt.slots[slot] = ⟨(s.dt.slots[slot]).tag, none⟩) ∧
          (old.held = .request → t.fu.requests[n] = none)) ∧
        t.cfg = s.cfg ∧ t.ge = s.ge ∧ t.sbu = s.sbu ∧ t.cs = s.cs ∧ t.now = s.now ∧ t.fu.host = s.fu.host)

/-! ### The end of a hold (R16 to R18, R57) -/

/-- R17, R18, R57: every demand whose hold has run out is retired, its slot emptied with its tag kept, its circuit
resolved anew; DEMAND-EXPIRED is raised if one was the host's, and a binding is told that it holds nothing. That with
nothing due nothing changes is the model's choice (log 2), and so is what ASLEEP makes of it: the part wakes, to RUN or
PARKED by the ignition, when the retirement raises some resolved level, and sleeps on otherwise (log 12; the first sense
sample 5 ms after the wake: log 19). -/
def Obligations.HoldExpiryRetiresEveryDueDemand : Prop :=
  ∀ (s : State) (due : SlotId → Prop), s.powered = true → s.evaluate = false →
    (∀ slot : SlotId, due slot ↔
      ∃ (d : Demand) (e : Nat), (s.dt.slots[slot]).demand = some d ∧ d.expiry = some e ∧ e ≤ s.now) →
    ((∀ slot : SlotId, ¬ due slot) → exec .holdExpiry s = .next s) ∧
    ((∃ slot : SlotId, due slot) →
      ∃ t, exec .holdExpiry s = .next t ∧
        (∀ slot : SlotId, due slot → t.dt.slots[slot] = ⟨(s.dt.slots[slot]).tag, none⟩) ∧
        (∀ slot : SlotId, ¬ due slot → t.dt.slots[slot] = s.dt.slots[slot]) ∧
        (s.dt.Lawful → ∀ (c : CircuitId) (slot : SlotId),
          slot ∈ t.dt.lists[c] ↔ slot ∈ s.dt.lists[c] ∧ ¬ due slot) ∧
        (s.dt.Lawful → ∀ c : CircuitId, (t.dt.lists[c]).Sublist s.dt.lists[c]) ∧
        t.dt.hostCount = s.dt.hostCount - (s.dt.slotsWhere (fun d =>
          decide (d.source = .host) && d.expiry.any (fun e => decide (e ≤ s.now)))).length ∧
        (∀ (c : CircuitId) (slot : SlotId) (d : Demand), (s.cfg.circuits[c]).kind.takesDemands = true →
          due slot → (s.dt.slots[slot]).demand = some d → d.circuit = c →
          t.dt.res[c] = t.resolution c ∧ (s.InStep c → t.InStep c)) ∧
        (∀ c : CircuitId, (∀ (slot : SlotId) (d : Demand), due slot → (s.dt.slots[slot]).demand = some d →
          d.circuit ≠ c) → t.dt.res[c] = s.dt.res[c] ∧ ((s.cfg.circuits[c]).cls = 0 → t.cc[c] = s.cc[c])) ∧
        ((∃ (slot : SlotId) (d : Demand), due slot ∧ (s.dt.slots[slot]).demand = some d ∧ d.source = .host) →
          t.isPending .demandExpired = true) ∧
        ((∀ (slot : SlotId) (d : Demand), due slot → (s.dt.slots[slot]).demand = some d → d.source ≠ .host) →
          t.isPending .demandExpired = s.isPending .demandExpired) ∧
        (∀ (n : BindingId) (slot : SlotId) (d : Demand), s.dt.Lawful → due slot →
          (s.dt.slots[slot]).demand = some d → d.source = .binding n → (s.ibu.bindings[n]).held = .demand →
          t.ibu.bindings[n] = { s.ibu.bindings[n] with held := .none }) ∧
        (∀ n : BindingId, (∀ (slot : SlotId) (d : Demand), due slot → (s.dt.slots[slot]).demand = some d →
          d.source ≠ .binding n) → t.ibu.bindings[n] = s.ibu.bindings[n]) ∧
        (s.sbu.power = .asleep → (∃ c : CircuitId, (s.dt.res[c]).resolved < (t.dt.res[c]).resolved) →
          t.sbu.power = (if s.ibu.ignition then .run else .parked) ∧ t.sbu.sampleDue = some (s.now + 20) ∧
          t.ibu.sampleDue = some (s.now + 5) ∧ t.sbu.evaluateDue = some (s.now + 1000) ∧
          ∀ g : ChannelId, (t.ge[g]).codes = []) ∧
        (s.sbu.power ≠ .asleep ∨ (∀ c : CircuitId, (t.dt.res[c]).resolved ≤ (s.dt.res[c]).resolved) →
          t.sbu.power = s.sbu.power ∧
          t.ibu = { s.ibu with bindings := t.ibu.bindings } ∧
          ∀ g : ChannelId, t.ge[g] = { s.ge[g] with warning := (t.ge[g]).warning }) ∧
        t.cfg = s.cfg ∧ t.fu = s.fu ∧ t.cs = s.cs ∧ t.order = s.order ∧ t.now = s.now ∧ t.pending = s.pending ∧
        t.lp = { s.lp with pending := t.lp.pending })

/-! ### Gauges (R90 to R103, R107 to R116) -/

/-- R102, R103: GAUGE-DIRECT and GAUGE-RELEASE are judged in their order; one that passes drives the channel directly,
or returns it to its sender, the filter standing. -/
def Obligations.GaugeIsDrivenDirectlyAndReleased : Prop :=
  ∀ (s : State) (b : Byte) (reading : Half), s.Ready →
    (2 < b.toNat → exec (.gaugeDirect b reading) s = .next (s.answered 0x40 .badParameter []) ∧
      exec (.gaugeRelease b) s = .next (s.answered 0x41 .badParameter [])) ∧
    ∀ g : ChannelId, b.toNat = g.val →
      (s.sbu.power ≠ .run → exec (.gaugeDirect b reading) s = .next (s.answered 0x40 .wrongState [])) ∧
      (s.sbu.power = .run → (s.ge[g]).state = .disabled ∨ (s.ge[g]).state = .off ∨ (s.ge[g]).state = .settling →
        exec (.gaugeDirect b reading) s = .next (s.answered 0x40 .wrongState [])) ∧
      (s.sbu.power = .run → (s.ge[g]).state = .tracking ∨ (s.ge[g]).state = .faultHold ∨ (s.ge[g]).state = .rest →
        exec (.gaugeDirect b reading) s = .next (({ s with ge := s.ge.set g { s.ge[g] with
          state := .direct
          directReading := some (min 1000 reading.toNat)
          faultRun := 0
          goodRun := 0
          hold := 0
          setCount := 0
          clearCount := 0 } } : State).answered 0x40 .ok [])) ∧
      (s.sbu.power = .run → (s.ge[g]).state = .direct →
        exec (.gaugeDirect b reading) s = .next (({ s with ge := s.ge.set g { s.ge[g] with
          directReading := some (min 1000 reading.toNat) } } : State).answered 0x40 .ok [])) ∧
      ((s.ge[g]).state ≠ .direct → exec (.gaugeRelease b) s = .next (s.answered 0x41 .wrongState [])) ∧
      ((s.ge[g]).state = .direct →
        exec (.gaugeRelease b) s = .next (({ s with ge := s.ge.set g { s.ge[g] with
          state := .tracking
          directReading := none
          faultRun := 0
          goodRun := 0
          setCount := 0
          clearCount := 0 } } : State).answered 0x41 .ok []))

/-- R90: a conversion joins the buffer, the fifth pushing out the oldest, and the next falls 20 ms later; one that is
not due changes nothing (log 3). While a channel is enabled and the part powered and not ASLEEP its sender input stands
pulled up, by 100 ohm in range LOW and 1000 ohm in range HIGH; a disabled channel applies none (R97), and an input that
no enabled channel reads has none. -/
def Obligations.ConversionJoinsTheBufferOfFour : Prop :=
  ∀ (s : State) (g : ChannelId) (code : Nat), s.powered = true → s.evaluate = false → code ≤ 4095 →
    (s.sbu.power ≠ .asleep → (s.ge[g]).state ≠ .disabled →
      s.appliedPullUp g = some (if (s.cfg.gauges[g]).rangeHigh then 1000 else 100) ∧
      ((∀ x : ChannelId, x ≠ g → (s.ge[x]).state ≠ .disabled → (s.cfg.gauges[x]).sender ≠ (s.cfg.gauges[g]).sender) →
        s.senderPullUp (s.cfg.gauges[g]).sender = s.appliedPullUp g)) ∧
    (s.sbu.power = .asleep ∨ (s.ge[g]).state = .disabled → s.appliedPullUp g = none) ∧
    (∀ input : ChannelId, (∀ x : ChannelId, (s.ge[x]).state ≠ .disabled → (s.cfg.gauges[x]).sender ≠ input) →
      s.senderPullUp input = none) ∧
    ((∀ due, (s.ge[g]).convertDue = some due → s.now < due) → exec (.senderConversion g code) s = .next s) ∧
    ∀ due, (s.ge[g]).convertDue = some due → due ≤ s.now →
      ((s.ge[g]).codes.length < 4 →
        exec (.senderConversion g code) s = .next ({ s with ge := s.ge.set g { s.ge[g] with
          codes := (s.ge[g]).codes ++ [code], convertDue := some (s.now + 20) } } : State).formed) ∧
      ((s.ge[g]).codes.length = 4 →
        exec (.senderConversion g code) s = .next ({ s with ge := s.ge.set g { s.ge[g] with
          codes := (s.ge[g]).codes.tail ++ [code], convertDue := some (s.now + 20) } } : State).formed)

/-- R91 to R93, R98, R102, R107, R109: a tick with an empty buffer is skipped whole; a good tick presets the filter in
SETTLING and steps it in TRACKING toward the sender's reading, a tick in DIRECT toward the host's, each driving the
gauge by stages 6 to 8 (that the good tick of SETTLING also ends the fault run is the model's choice: log 17). Each
raises GAUGE-UNDERSUPPLY where the flag goes from clear to set (R99). In TRACKING the warning is then evaluated on the
channel as the tick leaves it (R93, R100). N and the number of codes it averaged are recorded (R106). -/
def Obligations.GoodTickMovesTheNeedle : Prop :=
  ∀ (s : State) (g : ChannelId) (due n rq reading f : Nat) (base : Channel),
    s.powered = true → s.evaluate = false → (s.ge[g]).tickDue = some due → due ≤ s.now →
    n = (s.ge[g]).codes.sum / (s.ge[g]).codes.length → rq = resistanceOf s.cfg.gauges[g] n →
    reading = curveLookup (s.cfg.senderCurve g) rq →
    base = { s.ge[g] with tickDue := some (s.now + 100), code := n, averaged := (s.ge[g]).codes.length } →
    ((s.ge[g]).codes = [] → exec (.gaugeTick g) s = .next ({ s with
      ge := s.ge.set g { s.ge[g] with tickDue := some (s.now + 100) } } : State).formed) ∧
    ((s.ge[g]).codes ≠ [] →
      n * 1000 < (s.cfg.gauges[g]).openThr * 4096 ∧ (s.cfg.gauges[g]).shortThr * 4096 < n * 1000 →
      ((s.ge[g]).state = .settling →
        ∃ t, exec (.gaugeTick g) s = .next t ∧ s.TickFrame g t ∧
          t.ge[g] = ({ base with
            state := .tracking, resistance := some rq, reading := some reading, faultRun := 0 } : Channel).drivenBy
              s.cfg g s.sbu.value (16 * reading) ∧
          t.isPending .gaugeUndersupply =
            (s.isPending .gaugeUndersupply || ((t.ge[g]).undersupply && !(s.ge[g]).undersupply))) ∧
      ((s.ge[g]).state = .tracking → f = filterNext (s.cfg.gauges[g]).damping (s.ge[g]).filter reading →
        ∃ t u, exec (.gaugeTick g) s = .next t ∧ s.TickFrame g u ∧
          u.ge[g] = ({ base with
            resistance := some rq, reading := some reading, faultRun := 0 } : Channel).drivenBy
              s.cfg g s.sbu.value f ∧
          t = (u.evaluateWarning g).settle ∧ t.ge = (u.evaluateWarning g).ge ∧
          ((t.ge[g]).warning = (s.ge[g]).warning → s.TickFrame g t) ∧
          t.ge[g] = ({ base with
            resistance := some rq
            reading := some reading
            faultRun := 0
            warning := (t.ge[g]).warning
            setCount := (t.ge[g]).setCount
            clearCount := (t.ge[g]).clearCount } : Channel).drivenBy s.cfg g s.sbu.value f ∧
          ((s.cfg.gauges[g]).warnEnable = false → (t.ge[g]).warning = (s.ge[g]).warning ∧
            (t.ge[g]).setCount = (s.ge[g]).setCount ∧ (t.ge[g]).clearCount = (s.ge[g]).clearCount) ∧
          (t.isPending .gaugeUndersupply =
            (s.isPending .gaugeUndersupply || ((t.ge[g]).undersupply && !(s.ge[g]).undersupply))))) ∧
    ((s.ge[g]).codes ≠ [] → (s.ge[g]).state = .direct →
      f = filterNext (s.cfg.gauges[g]).damping (s.ge[g]).filter ((s.ge[g]).directReading.getD 0) →
      ∃ t, exec (.gaugeTick g) s = .next t ∧ s.TickFrame g t ∧ t.ge[g] = base.drivenBy s.cfg g s.sbu.value f ∧
        t.isPending .gaugeUndersupply =
          (s.isPending .gaugeUndersupply || ((t.ge[g]).undersupply && !(s.ge[g]).undersupply)))

/-- R92 to R95: a faulted tick counts, with duty 0 in SETTLING and the reading held in TRACKING; the fifth raises
SENDER-FAULT and enters FAULT-HOLD, or REST when the hold time is 0, from TRACKING with stages 6 to 8 run and recorded
first (R94, R106; what the undersupply flag does there is log 39). FAULT-HOLD goes to REST when its hold time has run;
the fifth good tick in a row brings either back to TRACKING. A tick in FAULT-HOLD or REST raises GAUGE-UNDERSUPPLY where
the flag goes from clear to set (R99), which an entry into REST or a stay there does not bring, and SENDER-FAULT not
again. -/
def Obligations.FaultedSenderIsHeldThenRested : Prop :=
  ∀ (s : State) (g : ChannelId) (due n : Nat) (good : Bool) (base rested held : Channel),
    s.powered = true → s.evaluate = false → (s.ge[g]).tickDue = some due → due ≤ s.now → (s.ge[g]).codes ≠ [] →
    n = (s.ge[g]).codes.sum / (s.ge[g]).codes.length →
    good = decide (n * 1000 < (s.cfg.gauges[g]).openThr * 4096 ∧ (s.cfg.gauges[g]).shortThr * 4096 < n * 1000) →
    base = { s.ge[g] with tickDue := some (s.now + 100), code := n, averaged := (s.ge[g]).codes.length } →
    rested = { base with state := .rest, filter := 0, undersupply := false, duty := 0 } →
    held = base.drivenBy s.cfg g s.sbu.value (s.ge[g]).filter →
    (good = false → (s.ge[g]).state = .settling ∨ (s.ge[g]).state = .tracking → ∃ t, exec (.gaugeTick g) s = .next t ∧
      s.TickFrame g t ∧
      ((s.ge[g]).faultRun + 1 < 5 →
        ((s.ge[g]).state = .settling → t.ge[g] = { base with faultRun := (s.ge[g]).faultRun + 1, duty := 0 }) ∧
        ((s.ge[g]).state = .tracking → t.ge[g] =
          ({ base with faultRun := (s.ge[g]).faultRun + 1 } : Channel).drivenBy s.cfg g s.sbu.value (s.ge[g]).filter)) ∧
      ((s.ge[g]).state = .settling → t.isPending .gaugeUndersupply = s.isPending .gaugeUndersupply) ∧
      ((s.ge[g]).state = .tracking → t.isPending .gaugeUndersupply =
        (s.isPending .gaugeUndersupply || (held.undersupply && !(s.ge[g]).undersupply))) ∧
      (5 ≤ (s.ge[g]).faultRun + 1 → t.isPending .senderFault = true ∧
        ((s.cfg.gauges[g]).holdTime = 0 →
          ((s.ge[g]).state = .settling → t.ge[g] = { rested with
            faultRun := (s.ge[g]).faultRun + 1, hold := 0, goodRun := 0, setCount := 0, clearCount := 0 }) ∧
          ((s.ge[g]).state = .tracking → t.ge[g] = { rested with
            faultRun := (s.ge[g]).faultRun + 1, hold := 0, goodRun := 0, setCount := 0, clearCount := 0
            heater := held.heater, target := held.target, supply := held.supply })) ∧
        ((s.cfg.gauges[g]).holdTime ≠ 0 →
          ((s.ge[g]).state = .settling → t.ge[g] = { base with
            state := .faultHold, faultRun := (s.ge[g]).faultRun + 1, hold := 0, goodRun := 0, setCount := 0,
            clearCount := 0, duty := 0 }) ∧
          ((s.ge[g]).state = .tracking → t.ge[g] = ({ base with
            state := .faultHold, faultRun := (s.ge[g]).faultRun + 1, hold := 0, goodRun := 0, setCount := 0,
            clearCount := 0 } : Channel).drivenBy s.cfg g s.sbu.value (s.ge[g]).filter)))) ∧
    ((s.ge[g]).state = .faultHold ∨ (s.ge[g]).state = .rest → ∃ t, exec (.gaugeTick g) s = .next t ∧ s.TickFrame g t ∧
      t.isPending .senderFault = s.isPending .senderFault ∧
      t.isPending .gaugeUndersupply =
        (s.isPending .gaugeUndersupply || ((t.ge[g]).undersupply && !(s.ge[g]).undersupply)) ∧
      (good = true → 5 ≤ (s.ge[g]).goodRun + 1 → ∃ rq reading, rq = resistanceOf s.cfg.gauges[g] n ∧
        reading = curveLookup (s.cfg.senderCurve g) rq ∧
        t.ge[g] = ({ base with
          state := .tracking, resistance := some rq, reading := some reading, faultRun := 0, goodRun := 0,
          setCount := 0, clearCount := 0 } : Channel).drivenBy s.cfg g s.sbu.value
            (filterNext (s.cfg.gauges[g]).damping (s.ge[g]).filter reading)) ∧
      (∀ run, good = false ∨ (s.ge[g]).goodRun + 1 < 5 → run = (if good then (s.ge[g]).goodRun + 1 else 0) →
        ((s.ge[g]).state = .rest → t.ge[g] = { base with goodRun := run, duty := 0 }) ∧
        ((s.ge[g]).state = .faultHold → (s.cfg.gauges[g]).holdTime ≤ (s.ge[g]).hold + 1 →
          t.ge[g] = { rested with goodRun := run, hold := (s.ge[g]).hold + 1 }) ∧
        ((s.ge[g]).state = .faultHold → (s.ge[g]).hold + 1 < (s.cfg.gauges[g]).holdTime →
          t.ge[g] = ({ base with goodRun := run, hold := (s.ge[g]).hold + 1 } : Channel).drivenBy
            s.cfg g s.sbu.value (s.ge[g]).filter)))

/-- R100: a warning is counted against its condition, or against its clearing condition while it stands, any other
evaluated tick restarting the count; the count that reaches the delay, or 1, places the demand or retires it. -/
def Obligations.WarningIsConfirmedAndCleared : Prop :=
  ∀ (s : State) (g : ChannelId) (k : GaugeCfg) (r : Nat) (warns clears : Bool),
    k = s.cfg.gauges[g] → r = displayedOf (s.ge[g]).filter →
    (warns = true ↔ (k.warnAbove = true ∧ k.warnThr < r) ∨ (k.warnAbove = false ∧ r < k.warnThr)) →
    (clears = true ↔ (k.warnAbove = true ∧ r + k.hysteresis < k.warnThr) ∨
      (k.warnAbove = false ∧ k.warnThr + k.hysteresis < r)) →
    (k.warnEnable = false → s.evaluateWarning g = s) ∧
    (k.warnEnable = true → (s.ge[g]).warning = false →
      (warns = false → s.evaluateWarning g = { s with ge := s.ge.set g { s.ge[g] with setCount := 0 } }) ∧
      (warns = true → (s.ge[g]).setCount + 1 < max 1 k.warnDelay →
        s.evaluateWarning g = { s with ge := s.ge.set g { s.ge[g] with setCount := (s.ge[g]).setCount + 1 } }) ∧
      (warns = true → max 1 k.warnDelay ≤ (s.ge[g]).setCount + 1 → ∃ t, s.evaluateWarning g = t ∧
        t.ge = s.ge.set g { s.ge[g] with setCount := 0, warning := true } ∧
        (s.dt.keyed (.warning g) k.warnCircuit = none → ∀ slot, s.dt.freeSlot = some slot →
          (t.dt.slots[slot]).demand =
            some ⟨k.warnCircuit, .warning g, .on, some 1000, k.warnPriority, none, true⟩))) ∧
    (k.warnEnable = true → (s.ge[g]).warning = true →
      (clears = false → s.evaluateWarning g = { s with ge := s.ge.set g { s.ge[g] with clearCount := 0 } }) ∧
      (clears = true → (s.ge[g]).clearCount + 1 < max 1 k.warnDelay →
        s.evaluateWarning g = { s with ge := s.ge.set g { s.ge[g] with clearCount := (s.ge[g]).clearCount + 1 } }) ∧
      (clears = true → max 1 k.warnDelay ≤ (s.ge[g]).clearCount + 1 → ∃ t, s.evaluateWarning g = t ∧
        t.ge = s.ge.set g { s.ge[g] with clearCount := 0, warning := false } ∧
        ∀ (slot : SlotId) (d : Demand), s.dt.keyed (.warning g) 0 = some (slot, d) →
          t.dt.slots[slot] = ⟨(s.dt.slots[slot]).tag, none⟩))

/-! ### Gauge arithmetic and the steps of the fan -/

/-- R108, R109, R115, R116: stages 2, 3, 7 and 8 in exact products. No code is both open and short, and a good one
lies from 1 to 4091; its resistance and the target voltage are their quotients rounded to nearest, halves up, the
resistance saturated at 16383; the duty is 0 for a target of 0, 1000 for a target at or above the supply, and
otherwise the target times 1000 over the supply. -/
def Obligations.GaugeStagesComputeExactQuotients : Prop :=
  (∀ (k : GaugeCfg) (n pull r : Nat), 900 ≤ k.openThr → k.openThr ≤ 999 → k.shortThr ≤ 100 → n ≤ 4095 →
    pull = (if k.rangeHigh then 1000 else 100) → r = resistanceOf k n →
    (codeOpen k n = true ↔ k.openThr * 4096 ≤ n * 1000) ∧ (codeShort k n = true ↔ n * 1000 ≤ k.shortThr * 4096) ∧
    ¬ (codeOpen k n = true ∧ codeShort k n = true) ∧
    (codeGood k n = true ↔ codeOpen k n = false ∧ codeShort k n = false) ∧
    (codeGood k n = true → 1 ≤ n ∧ n ≤ 4091) ∧
    r ≤ 16383 ∧
    (r < 16383 → 2 * (4096 - n) * r ≤ 2 * (4 * pull * n) + (4096 - n) ∧
      2 * (4 * pull * n) + (4096 - n) < 2 * (4096 - n) * (r + 1)) ∧
    (r = 16383 ↔ 2 * (4096 - n) * 16383 ≤ 2 * (4 * pull * n) + (4096 - n))) ∧
  ∀ (heater stabilised supply target : Nat), target = targetVoltage stabilised heater →
    (2000 * target ≤ 2 * (heater * stabilised) + 1000 ∧
      2 * (heater * stabilised) + 1000 < 2000 * (target + 1)) ∧
    (heater ≤ 1000 → stabilised ≤ 12000 → target ≤ 12000) ∧ (heater = 0 → target = 0) ∧
    (target = 0 → dutyOf target supply = 0 ∧ undersupplied target supply = false) ∧
    (target ≠ 0 → supply ≤ target → dutyOf target supply = 1000 ∧ undersupplied target supply = true) ∧
    (target ≠ 0 → target < supply → undersupplied target supply = false ∧ dutyOf target supply ≤ 1000 ∧
      2 * supply * dutyOf target supply ≤ 2 * (target * 1000) + supply ∧
      2 * (target * 1000) + supply < 2 * supply * (dutyOf target supply + 1))

/-- R111: a curve lookup outside the points gives the nearer end's y, inside a segment yi plus the quotient rounded to
nearest, halves away from zero, at a point that point's y; it lies between the least and the greatest y in use. -/
def Obligations.CurveLookupInterpolates : Prop :=
  ∀ (points : List Point) (p q : Point) (x : Nat), curveWellFormed points = true →
    points.head? = some p → points.getLast? = some q →
    (x < p.x → curveLookup points x = p.y) ∧ (q.x < x → curveLookup points x = q.y) ∧
    (∀ (i : Nat) (a b : Point), points[i]? = some a → points[i + 1]? = some b → a.x ≤ x → x ≤ b.x →
      ∃ step : Int, (curveLookup points x : Int) = a.y + step ∧
        ((0 : Int) ≤ ((b.y : Int) - a.y) * ((x : Int) - a.x) →
          2 * ((b.x : Int) - a.x) * step ≤ 2 * (((b.y : Int) - a.y) * ((x : Int) - a.x)) + ((b.x : Int) - a.x) ∧
          2 * (((b.y : Int) - a.y) * ((x : Int) - a.x)) + ((b.x : Int) - a.x) <
            2 * ((b.x : Int) - a.x) * (step + 1)) ∧
        (((b.y : Int) - a.y) * ((x : Int) - a.x) < 0 →
          2 * ((b.x : Int) - a.x) * (-step) ≤ 2 * -(((b.y : Int) - a.y) * ((x : Int) - a.x)) + ((b.x : Int) - a.x) ∧
          2 * -(((b.y : Int) - a.y) * ((x : Int) - a.x)) + ((b.x : Int) - a.x) <
            2 * ((b.x : Int) - a.x) * (-step + 1))) ∧
    (∀ a ∈ points, x = a.x → curveLookup points x = a.y) ∧
    (∃ a ∈ points, a.y ≤ curveLookup points x) ∧ (∃ a ∈ points, curveLookup points x ≤ a.y) ∧
    ((∀ a ∈ points, a.y ≤ 1000) → curveLookup points x ≤ 1000)

/-- R113: the coefficient, the step and the filter of stage 5: each step has the sign of the difference and no greater
size, a step that would be 0 is one sixteenth, a damping of 0 gives the target at once, and every damping reaches the
target in finitely many ticks and holds it. -/
def Obligations.FilterMovesTowardItsTarget : Prop :=
  ∀ (damping f target : Nat) (d step : Int), damping ≤ 255 → f ≤ 16000 → target ≤ 1000 →
    d = 16 * (target : Int) - f → step = (filterNext damping f target : Int) - f →
    (2 * (damping + 1) * dampingCoefficient damping ≤ 2 * 256 + (damping + 1) ∧
      2 * 256 + (damping + 1) < 2 * (damping + 1) * (dampingCoefficient damping + 1)) ∧
    1 ≤ dampingCoefficient damping ∧ dampingCoefficient damping ≤ 256 ∧
    (∀ quotient : Int, quotient = (d * dampingCoefficient damping).tdiv 256 →
      (quotient ≠ 0 → step = quotient) ∧ (quotient = 0 → 0 < d → step = 1) ∧ (quotient = 0 → d < 0 → step = -1)) ∧
    (d = 0 → step = 0) ∧
    (0 < d → 0 < step ∧ step ≤ d) ∧ (d < 0 → step < 0 ∧ d ≤ step) ∧
    (0 < d.natAbs → d.natAbs ≤ (256 + dampingCoefficient damping - 1) / dampingCoefficient damping →
      step.natAbs = 1) ∧
    filterNext damping f target ≤ 16000 ∧ displayedOf (filterNext damping f target) ≤ 1000 ∧
    (32 * displayedOf f ≤ 2 * f + 16 ∧ 2 * f + 16 < 32 * (displayedOf f + 1)) ∧
    filterNext 0 f target = 16 * target ∧
    ∃ ticks, ∀ more, ticks ≤ more → Nat.repeat (fun x => filterNext damping x target) more f = 16 * target

/-- R118: a level maps to 0, to the greatest step in use not above it, or, below every step, to the lowest; it is 0
exactly when the level is 0. A resolution of the MOTOR circuit writes the mapped level into its record. -/
def Obligations.FanLevelsMapToSteps : Prop :=
  (∀ (fan : FanCfg) (level : Nat), fan.stepsInUse.Pairwise (· < ·) → (∀ st ∈ fan.stepsInUse, 0 < st) →
    fan.stepsInUse ≠ [] →
    (fan.mapLevel level = 0 ↔ level = 0) ∧
    (0 < level → fan.mapLevel level ∈ fan.stepsInUse) ∧
    (0 < level → (∃ st ∈ fan.stepsInUse, st ≤ level) →
      fan.mapLevel level ≤ level ∧ ∀ st ∈ fan.stepsInUse, st ≤ level → st ≤ fan.mapLevel level) ∧
    (0 < level → (∀ st ∈ fan.stepsInUse, level < st) → ∀ st ∈ fan.stepsInUse, fan.mapLevel level ≤ st)) ∧
  ∀ (s : State) (c : CircuitId) (listed phase : Bool), (s.cfg.circuits[c]).kind = .motor → s.InStep c →
    ((s.resolve listed phase c).cc[c]).resolved = s.cfg.fan.mapLevel (s.resolution c).resolved ∧
    ((s.resolve listed phase c).dt.res[c]).resolved = (s.resolution c).resolved ∧
    (s.cfg.fan.mapLevel (s.resolution c).resolved = (s.cc[c]).resolved → listed = false →
      ((s.resolve listed phase c).cc[c]).granted = (s.cc[c]).granted ∧
      ((s.resolve listed phase c).cc[c]).applied = (s.cc[c]).applied ∧
      ((s.resolve listed phase c).cc[c]).state = (s.cc[c]).state)

/-! ### Supply, charge and budget (R130 to R143) -/

/-- R130 to R133: a sample joins both buffers, S and the charge value are their means, the runs go on or end, and a
run of 2000 ms moves the supply state by its table and one of 500 ms the charge state; SUPPLY-LOW and NOT-CHARGING
follow. A change of the charge state forms the charge lamp anew: its demand stands on the configured circuit while the
part is in RUN and NOT-CHARGING, and is retired otherwise (R133). -/
def Obligations.SamplesMoveTheSupplyAndChargeStates : Prop :=
  ∀ (s : State) (vsense csense due nominal threshold : Nat) (state : SupplyState) (charging : Bool) (u : Supply),
    s.powered = true → s.evaluate = false → s.sbu.sampleDue = some due → due ≤ s.now →
    s.sbu.samples.length ≤ 4 → s.sbu.chargeSamples.length ≤ 4 →
    nominal = (if s.cfg.budget.system = .six then 6300 else 12600) →
    threshold = (if s.cfg.budget.chargeThr = 0 then (if s.cfg.budget.system = .six then 5800 else 11600)
      else s.cfg.budget.chargeThr) →
    u = { s.sbu with
      sampleDue := some (s.now + 20)
      samples := (if s.sbu.samples.length = 4 then s.sbu.samples.tail else s.sbu.samples) ++ [min vsense 20000]
      value := u.samples.sum / u.samples.length
      belowLow := if u.value < nominal * s.cfg.budget.low / 1000 then some (s.sbu.belowLow.getD s.now) else none
      belowCritical := if u.value < nominal * s.cfg.budget.critical / 1000 then
        some (s.sbu.belowCritical.getD s.now) else none
      aboveLow := if nominal * (s.cfg.budget.low + 20) / 1000 ≤ u.value then
        some (s.sbu.aboveLow.getD s.now) else none
      aboveCritical := if nominal * (s.cfg.budget.critical + 20) / 1000 ≤ u.value then
        some (s.sbu.aboveCritical.getD s.now) else none
      chargeSamples := (if s.sbu.chargeSamples.length = 4 then s.sbu.chargeSamples.tail else s.sbu.chargeSamples) ++
        [min csense 20000]
      chargeValue := u.chargeSamples.sum / u.chargeSamples.length
      atThreshold := if threshold ≤ u.chargeValue then some (s.sbu.atThreshold.getD s.now) else none
      belowThreshold := if u.chargeValue < threshold then some (s.sbu.belowThreshold.getD s.now) else none } →
    state = (match s.sbu.state with
      | .normal =>
        if u.belowCritical.any (fun a => decide (a + 2000 ≤ s.now)) then .critical
        else if u.belowLow.any (fun a => decide (a + 2000 ≤ s.now)) then .low else .normal
      | .low =>
        if u.belowCritical.any (fun a => decide (a + 2000 ≤ s.now)) then .critical
        else if u.aboveLow.any (fun a => decide (a + 2000 ≤ s.now)) then .normal else .low
      | .critical =>
        if u.aboveLow.any (fun a => decide (a + 2000 ≤ s.now)) then .normal
        else if u.aboveCritical.any (fun a => decide (a + 2000 ≤ s.now)) then .low else .critical) →
    charging = (if s.sbu.charging then !u.belowThreshold.any (fun a => decide (a + 500 ≤ s.now))
      else u.atThreshold.any (fun a => decide (a + 500 ≤ s.now))) →
    ∃ t, exec (.supplySample vsense csense) s = .next t ∧
      t.sbu = { u with
        state := state, charging := charging, lamp := t.sbu.lamp, sleepSince := t.sbu.sleepSince,
        last := t.sbu.last } ∧
      (state = s.sbu.state → charging = s.sbu.charging →
        t = ({ s with sbu := { u with state := state, charging := charging } } : State).formed) ∧
      (charging ≠ s.sbu.charging →
        t.sbu.lamp = decide (s.sbu.power = .run ∧ charging = false ∧ s.cfg.budget.lamp ≠ none)) ∧
      (charging = s.sbu.charging → t.sbu.lamp = s.sbu.lamp ∧ t.dt = s.dt) ∧
      (∀ (c : CircuitId) (free : SlotId), charging ≠ s.sbu.charging → s.sbu.power = .run → charging = false →
        s.cfg.budget.lamp = some c → s.dt.freeSlot = some free →
        (∃ (slot : SlotId) (d : Demand), (t.dt.slots[slot]).demand = some d ∧ d.source = .charge ∧ d.circuit = c) ∧
        (s.dt.keyed .charge 0 = none →
          t.dt.slots = s.dt.slots.set free
            ⟨nextTag (s.dt.slots[free]).tag, some ⟨c, .charge, .on, some 1000, 10, none, true⟩⟩ ∧
          s.dt.Enters 10 free s.dt.lists[c] t.dt.lists[c] ∧
          ((s.cfg.circuits[c]).kind.takesDemands = true → t.dt.res[c] = t.resolution c))) ∧
      (∀ (slot : SlotId) (d : Demand), charging ≠ s.sbu.charging → s.sbu.lamp = true →
        s.sbu.power ≠ .run ∨ charging = true ∨ s.cfg.budget.lamp = none → s.dt.keyed .charge 0 = some (slot, d) →
        t.dt.slots = s.dt.slots.set slot ⟨(s.dt.slots[slot]).tag, none⟩ ∧
        t.dt.lists[d.circuit] = (s.dt.lists[d.circuit]).filter (fun x => x ≠ slot) ∧
        ((s.cfg.circuits[d.circuit]).kind.takesDemands = true → t.dt.res[d.circuit] = t.resolution d.circuit)) ∧
      (∀ c : CircuitId, (s.cfg.circuits[c]).kind.takesDemands = true → s.InStep c → t.InStep c) ∧
      (s.dt.Lawful → ∀ c : CircuitId, ¬ s.LampReach t c → t.dt.lists[c] = s.dt.lists[c] ∧ t.dt.res[c] = s.dt.res[c] ∧
        ((s.cfg.circuits[c]).cls = 0 → t.cc[c] = s.cc[c])) ∧
      (state ≠ s.sbu.state ∨ charging ≠ s.sbu.charging → s.sbu.power ≠ .asleep → t.sbu.last.made = true) ∧
      t.isPending .supplyLow = (s.isPending .supplyLow || (decide (state ≠ s.sbu.state) && decide (state ≠ .normal))) ∧
      t.isPending .notCharging = (s.isPending .notCharging ||
        (s.sbu.charging && !charging && decide (s.sbu.power = .run))) ∧
      (∀ (slot : SlotId) (d : Demand), (s.dt.slots[slot]).demand = some d → d.source ≠ .charge →
        t.dt.slots[slot] = s.dt.slots[slot]) ∧
      t.cfg = s.cfg ∧ t.ibu = s.ibu ∧ t.fu = s.fu ∧ t.ge = s.ge ∧ t.cs = s.cs ∧ t.now = s.now ∧ t.order = s.order ∧
      t.pending = s.pending ∧ t.lp = { s.lp with pending := t.lp.pending }

/-- R137 to R141, R143: the 1 s timer restarts and brings an evaluation: B, E and A as the spec forms them, the
granted draw the total and within A, each grant within its resolved level, the classes in strict order, the shed flags
and SHED-CHANGED formed anew; class 0 stands. Each grant is the highest candidate that passes R139's test on top of the
draws granted before it, class by class and in ascending order within a class, unless a circuit of a lower class number
was held back (R140). -/
def Obligations.EvaluationGrantsWithinTheAllowance : Prop :=
  ∀ (s : State) (due base allowance essential sheddable : Nat) (counted : CircuitId → Nat),
    s.powered = true → s.evaluate = false → s.sbu.power ≠ .asleep → s.sbu.evaluateDue = some due → due ≤ s.now →
    base = (if s.sbu.power = .run then (if s.sbu.charging then s.cfg.budget.dynamo else s.cfg.budget.battery)
      else s.cfg.budget.park) →
    allowance = (if s.sbu.state = .normal then base else base * s.cfg.budget.derate / 1000) →
    (∀ c : CircuitId, counted c = (match (s.cfg.circuits[c]).kind with
      | .filament | .led => (s.dt.res[c]).requested
      | .motor => s.cfg.fan.mapLevel (s.dt.res[c]).requested
      | .gauge => (s.cc[c]).resolved
      | .none => 0)) →
    essential = ((allCircuits.filter (fun c => decide ((s.cfg.circuits[c]).cls = 0))).map
      (fun c => ((s.cfg.circuits[c]).rated * counted c + 999) / 1000)).sum →
    sheddable = (if s.sbu.state = .critical then 0 else allowance - essential) →
    ∃ t, exec .evaluationTimerExpiry s = .next t ∧
      t = { s with
        cc := t.cc
        sbu := { s.sbu with
          evaluateDue := some (s.now + 1000), sleepSince := t.sbu.sleepSince, last := t.sbu.last }
        lp := { s.lp with pending := t.lp.pending } } ∧
      t.sbu.last = ⟨true, allowance, essential, sheddable, t.sheddableDraw, decide (allowance < essential)⟩ ∧
      t.sheddableDraw ≤ sheddable ∧
      (∀ c : CircuitId, (s.cfg.circuits[c]).cls = 0 → t.cc[c] = s.cc[c]) ∧
      (∀ c : CircuitId, (s.cfg.circuits[c]).cls ≠ 0 →
        (t.cc[c]).resolved = (s.cc[c]).resolved ∧ (t.cc[c]).granted ≤ (s.cc[c]).resolved ∧
        ((s.cfg.circuits[c]).kind ≠ .motor →
          (t.cc[c]).granted = 0 ∨ (t.cc[c]).granted = (s.cc[c]).resolved) ∧
        ((s.cc[c]).granted < (t.cc[c]).granted →
          expectedDraw (s.cfg.circuits[c]).rated (t.cc[c]).granted + s.cfg.budget.margin ≤ sheddable ∧
          ∀ stamp, (s.cc[c]).shed = some stamp → s.cfg.budget.delay * 100 ≤ s.now - stamp) ∧
        ((t.cc[c]).shed.isSome = true ↔ (t.cc[c]).granted < (s.cc[c]).resolved) ∧
        ((t.cc[c]).shed.isSome = true →
          (t.cc[c]).shed = (if (s.cc[c]).shed = none ∨ (t.cc[c]).granted < (s.cc[c]).granted then some s.now
            else (s.cc[c]).shed)) ∧
        ∀ x : CircuitId, (s.cfg.circuits[c]).cls < (s.cfg.circuits[x]).cls →
          (t.cc[c]).granted < (s.cc[c]).resolved → (t.cc[x]).granted = 0) ∧
      (∀ (c : CircuitId) (before : Nat) (passes : Nat → Prop), (s.cfg.circuits[c]).cls ≠ 0 →
        (s.cfg.circuits[c]).cls ≤ 3 →
        before = ((allCircuits.filter (fun x : CircuitId =>
          decide ((s.cfg.circuits[x]).cls ≠ 0 ∧ ((s.cfg.circuits[x]).cls < (s.cfg.circuits[c]).cls ∨
            ((s.cfg.circuits[x]).cls = (s.cfg.circuits[c]).cls ∧ x < c))))).map
          (fun x : CircuitId => expectedDraw (s.cfg.circuits[x]).rated (t.cc[x]).granted)).sum →
        (∀ level, passes level ↔
          (level ≤ (s.cc[c]).granted ∧ before + expectedDraw (s.cfg.circuits[c]).rated level ≤ sheddable) ∨
          ((s.cc[c]).granted < level ∧
            before + expectedDraw (s.cfg.circuits[c]).rated level + s.cfg.budget.margin ≤ sheddable ∧
            ∀ stamp, (s.cc[c]).shed = some stamp → s.cfg.budget.delay * 100 ≤ s.now - stamp)) →
        ((t.cc[c]).granted ≠ 0 → passes (t.cc[c]).granted) ∧
        ((s.cfg.circuits[c]).kind = .motor →
          (t.cc[c]).granted = 0 ∨ (t.cc[c]).granted ∈ s.cfg.fan.stepsInUse) ∧
        ((∀ x : CircuitId, (s.cfg.circuits[x]).cls ≠ 0 → (s.cfg.circuits[x]).cls < (s.cfg.circuits[c]).cls →
            (t.cc[x]).granted = (s.cc[x]).resolved) →
          ((s.cfg.circuits[c]).kind ≠ .motor → passes (s.cc[c]).resolved →
            (t.cc[c]).granted = (s.cc[c]).resolved) ∧
          ((s.cfg.circuits[c]).kind = .motor → s.cfg.fan.stepsInUse.Pairwise (· < ·) →
            ∀ st ∈ s.cfg.fan.stepsInUse, st ≤ (s.cc[c]).resolved → passes st → st ≤ (t.cc[c]).granted))) ∧
      (t.isPending .shedChanged = true ↔ s.isPending .shedChanged = true ∨
        ∃ c : CircuitId, (t.cc[c]).shed.isSome ≠ (s.cc[c]).shed.isSome)

/-- R135, R136: when the sleep timer reaches 30 s in PARKED the part enters ASLEEP: sampling, runs, conversions and
the evaluation timer stop and the senders' pull-ups are released (R90). The sleep timer then stands absent
(`sleepSince := none`), which R135 and R136 do not say: that clause is the model's choice (log 44). All else stands. That
before that, and in RUN, nothing happens is the model's choice (log 2). -/
def Obligations.SleepTimerPutsThePartToSleep : Prop :=
  ∀ s : State, s.powered = true → s.evaluate = false →
    (s.sbu.power ≠ .parked → exec .sleepTimerExpiry s = .next s) ∧
    (∀ since, s.sbu.sleepSince = some since → s.now < since + 30000 → exec .sleepTimerExpiry s = .next s) ∧
    (∀ since, s.sbu.power = .parked → s.sbu.sleepSince = some since → since + 30000 ≤ s.now →
      ∃ t, exec .sleepTimerExpiry s = .next t ∧
        t = { s with
          sbu := { s.sbu with
            power := .asleep, belowLow := none, belowCritical := none, aboveLow := none, aboveCritical := none,
            atThreshold := none, belowThreshold := none, sleepSince := none, evaluateDue := none, sampleDue := none }
          ibu := { s.ibu with sampleDue := none }
          ge := t.ge } ∧
        (∀ g : ChannelId, t.appliedPullUp g = none) ∧
        ∀ g : ChannelId, t.ge[g] = { s.ge[g] with codes := [], convertDue := none })

/-! ### The store at work (R167 to R172) -/

/-- R170, R171: each page of a save takes the buffer's bytes but for the cells that do not take (log 8), and no other
page moves; the verify raises SAVE-DONE when image and buffer agree, setting the lock flag for a lock byte of 0x01,
and SAVE-FAILED otherwise; the store is IDLE and its buffer empty. -/
def Obligations.SaveProgramsItsPagesAndVerifies : Prop :=
  ∀ (s : State) (buffer : Memory), s.powered = true → s.evaluate = false → s.ImageLawful →
    s.cs.buffer = some buffer →
    (∀ (page : Nat) (d : PageDefects), s.cs.state = .saving page → page < 32 →
      ∃ t, exec (.savePageProgrammed d) s = .next t ∧
        t = ({ s with cs := { s.cs with state := .saving (page + 1), image := t.cs.image } } : State).formed ∧
        (∀ a : Nat, a < 32 * page ∨ 32 * page + 32 ≤ a → t.cs.image.read a = s.cs.image.read a) ∧
        (∀ i : Nat, i < 32 → (∀ v, (i, v) ∉ d) → t.cs.image.read (32 * page + i) = buffer.read (32 * page + i)) ∧
        (∀ (i : Nat) (v : Byte), i < 32 → d = [(i, v)] → t.cs.image.read (32 * page + i) = v)) ∧
    (s.cs.state = .saving 32 →
      ((∀ a : Nat, a < 1024 → s.cs.image.read a = buffer.read a) → crcOf (buffer.bytes 0 1022) = storedCrc buffer →
        exec .saveVerifyEnd s = .next (({ s with cs := { s.cs with
          state := .idle, buffer := none, lock := s.cs.lock || decide (buffer.read 1 = 0x01) } } : State).raise
            .saveDone).formed) ∧
      ((∃ a : Nat, a < 1024 ∧ s.cs.image.read a ≠ buffer.read a) →
        exec .saveVerifyEnd s = .next (({ s with cs := { s.cs with state := .idle, buffer := none } } : State).raise
          .saveFailed).formed)) ∧
    ∀ (lock : Bool) (cfg : LiveConfig), buffer = imageOf lock cfg → cfg.stored →
      crcOf (buffer.bytes 0 1022) = storedCrc buffer ∧ (buffer.read 1 = 0x01 ↔ lock = true)

/-- R172: each page of an erase reads 0xFF but for the cells that do not erase (log 8), and no other page moves; the
end of page 31 is a software reset with the factory defaults, the lock flag clear, and the last result and response
those of ERASE-STORE. Every block stands at its reset values but for what the ignition brings (R64, R175; `Restarted`;
the first sense sample 5 ms later is log 19). -/
def Obligations.EraseEndsWithFactoryDefaults : Prop :=
  ∀ (s : State) (page : Nat) (d : PageDefects), s.powered = true → s.evaluate = false →
    s.cs.state = .erasing page → page < 32 →
    ∃ t, exec (.erasePageErased d) s = .next t ∧
      (∀ a : Nat, a < 32 * page ∨ 32 * page + 32 ≤ a → t.cs.image.read a = s.cs.image.read a) ∧
      (∀ i : Nat, i < 32 → (∀ v, (i, v) ∉ d) → t.cs.image.read (32 * page + i) = 0xFF) ∧
      (page < 31 →
        t = ({ s with cs := { s.cs with state := .erasing (page + 1), image := t.cs.image } } : State).formed) ∧
      (page = 31 → t.cfg = factoryConfig ∧ t.cs = ⟨t.cs.image, .idle, none, false⟩ ∧
        (∀ i : InputId, t.ibu.inputs[i] = { s.ibu.inputs[i] with counter := 0 }) ∧
        (∀ n : BindingId, t.ibu.bindings[n] = ⟨.notEvaluated, .none⟩) ∧
        t.ibu.ignition = decide ((s.ibu.inputs[0]).level = some true) ∧
        t.sbu.power = (if t.ibu.ignition then .run else .parked) ∧
        (∀ slot : SlotId, t.dt.slots[slot] = ⟨0, none⟩) ∧ (∀ c : CircuitId, (t.cc[c]).applied = 0) ∧
        (∀ c : CircuitId, t.dt.lists[c] = [] ∧ (t.cc[c]).AtReset) ∧ t.fu.AtReset ∧
        (t.ibu.ignition = false → t.BlocksAtReset) ∧ t.Restarted ∧
        t.lp.pending = 0 ∧ t.lp.window = none ∧ t.lp.straps = s.lp.straps ∧ t.lp.last = ⟨0x82, .ok, 0⟩ ∧
        t.lp.response = some (responseBytes .ok [])) ∧
      t.now = s.now ∧ t.pending = s.pending ∧ t.powered = true ∧ t.fu.wireLow = s.fu.wireLow

/-! ### Invariants -/

/-- Every step keeps the image and the program buffer in canonical form (R167; the form is the model's). -/
def Obligations.EveryStepKeepsTheImageCanonical : Prop :=
  ∀ s t : State, s.ImageLawful → step s = .next t → t.ImageLawful

/-- R1, R4, R6, R7, R9: every step keeps the law of the demand table. R71: over it, with at most four members on each lane,
every step keeps each lane's demands on its members exactly while a request covers it. -/
def Obligations.EveryStepKeepsTheDemandTableLawful : Prop :=
  (∀ s t : State, s.dt.Lawful → step s = .next t → t.dt.Lawful) ∧
  ∀ s t : State, s.dt.Lawful → s.cfg.stored → s.LanesStand → step s = .next t → t.LanesStand

/-- R28, R29, R120 to R122: every step keeps the law of levels: applied at most granted, granted at most resolved and
equal to it on class 0, and each state driven as it says. R11, R118: every step keeps each circuit record in step with
the Demand Table. Both, with the laws of the table, the lanes and the configuration, are kept together with R10's own
law, that every circuit stands at what its ranked list gives it, with a circuit of kind NONE dark and in OFF (R28), a
fan granted 0 or a step in use (R119), and a clock that is IDLE exactly while no request stands (R75, R77). -/
def Obligations.EveryStepKeepsTheLawOfLevels : Prop :=
  (∀ s t : State, s.LevelsLawful → step s = .next t → t.LevelsLawful) ∧
  (∀ s t : State, (∀ c : CircuitId, s.InStep c) → step s = .next t → ∀ c : CircuitId, t.InStep c) ∧
  ∀ s t : State, s.Lawful → step s = .next t → t.Lawful

/-- R143: every step keeps the granted draw of the sheddable circuits within the allowance of the most recent
evaluation. -/
def Obligations.EveryStepKeepsTheBudget : Prop :=
  ∀ s t : State, s.BudgetLawful → step s = .next t → t.BudgetLawful

/-- R98, R102, R110, R113: every step keeps each channel's filter, duty and direct reading in range, and a channel
that is DISABLED, OFF or REST at duty 0. -/
def Obligations.EveryStepKeepsTheGaugesInRange : Prop :=
  ∀ s t : State, s.GaugesLawful → step s = .next t → t.GaugesLawful

/-- R22, R25, R97, R159: over a lawful demand table, every step keeps the cross-table checks of the live
configuration, with every living demand on a circuit that takes demands. R158: every step keeps each entry of each table
one that its own bytes give back, so within its ranges. -/
def Obligations.EveryStepKeepsTheConfigurationLawful : Prop :=
  (∀ s t : State, s.dt.Lawful → s.ConfigLawful → step s = .next t → t.ConfigLawful) ∧
  ∀ s t : State, s.cfg.stored → step s = .next t → t.cfg.stored

/-- Every law that the steps keep holds of the part right after reset, and a power-on reset of that blank part, with
the straps at 0, gives it again (log 5). -/
def Obligations.ResetStateIsLawful : Prop :=
  State.reset.ImageLawful ∧ State.reset.dt.Lawful ∧ State.reset.LevelsLawful ∧ State.reset.BudgetLawful ∧
    State.reset.GaugesLawful ∧ State.reset.ConfigLawful ∧ State.reset.Lawful ∧ State.reset.LanesStand ∧
    State.reset.Ready ∧
    State.reset.BlocksAtReset ∧ State.reset.cfg.stored ∧ exec (.powerOnReset 0) State.reset = .next State.reset
end

