-- ==== Sys2Proof/Laws/State.lean ====
section
/-! SUPPORT. What each named update does to each field of State: one lemma for each, true by definition. -/

namespace Sys2Proof.Machine

open Sys2Proof

/-! ### State.raiseIf -/

@[simp] theorem State.raiseIf_now (c : Status) (b : Bool) (s : State) : (s.raiseIf c b).now = s.now := rfl
@[simp] theorem State.raiseIf_powered (c : Status) (b : Bool) (s : State) : (s.raiseIf c b).powered = s.powered := rfl
@[simp] theorem State.raiseIf_cfg (c : Status) (b : Bool) (s : State) : (s.raiseIf c b).cfg = s.cfg := rfl
@[simp] theorem State.raiseIf_dt (c : Status) (b : Bool) (s : State) : (s.raiseIf c b).dt = s.dt := rfl
@[simp] theorem State.raiseIf_cc (c : Status) (b : Bool) (s : State) : (s.raiseIf c b).cc = s.cc := rfl
@[simp] theorem State.raiseIf_ibu (c : Status) (b : Bool) (s : State) : (s.raiseIf c b).ibu = s.ibu := rfl
@[simp] theorem State.raiseIf_fu (c : Status) (b : Bool) (s : State) : (s.raiseIf c b).fu = s.fu := rfl
@[simp] theorem State.raiseIf_ge (c : Status) (b : Bool) (s : State) : (s.raiseIf c b).ge = s.ge := rfl
@[simp] theorem State.raiseIf_sbu (c : Status) (b : Bool) (s : State) : (s.raiseIf c b).sbu = s.sbu := rfl
@[simp] theorem State.raiseIf_lp (c : Status) (b : Bool) (s : State) : (s.raiseIf c b).lp = s.lp.raiseIf c b := rfl
@[simp] theorem State.raiseIf_cs (c : Status) (b : Bool) (s : State) : (s.raiseIf c b).cs = s.cs := rfl
@[simp] theorem State.raiseIf_evaluate (c : Status) (b : Bool) (s : State) :
    (s.raiseIf c b).evaluate = s.evaluate := rfl
@[simp] theorem State.raiseIf_order (c : Status) (b : Bool) (s : State) : (s.raiseIf c b).order = s.order := rfl
@[simp] theorem State.raiseIf_cuts (c : Status) (b : Bool) (s : State) : (s.raiseIf c b).cuts = s.cuts := rfl
@[simp] theorem State.raiseIf_pending (c : Status) (b : Bool) (s : State) : (s.raiseIf c b).pending = s.pending := rfl

/-! ### State.raise -/

@[simp] theorem State.raise_now (c : Status) (s : State) : (s.raise c).now = s.now := rfl
@[simp] theorem State.raise_powered (c : Status) (s : State) : (s.raise c).powered = s.powered := rfl
@[simp] theorem State.raise_cfg (c : Status) (s : State) : (s.raise c).cfg = s.cfg := rfl
@[simp] theorem State.raise_dt (c : Status) (s : State) : (s.raise c).dt = s.dt := rfl
@[simp] theorem State.raise_cc (c : Status) (s : State) : (s.raise c).cc = s.cc := rfl
@[simp] theorem State.raise_ibu (c : Status) (s : State) : (s.raise c).ibu = s.ibu := rfl
@[simp] theorem State.raise_fu (c : Status) (s : State) : (s.raise c).fu = s.fu := rfl
@[simp] theorem State.raise_ge (c : Status) (s : State) : (s.raise c).ge = s.ge := rfl
@[simp] theorem State.raise_sbu (c : Status) (s : State) : (s.raise c).sbu = s.sbu := rfl
@[simp] theorem State.raise_lp (c : Status) (s : State) : (s.raise c).lp = s.lp.raiseIf c true := rfl
@[simp] theorem State.raise_cs (c : Status) (s : State) : (s.raise c).cs = s.cs := rfl
@[simp] theorem State.raise_evaluate (c : Status) (s : State) : (s.raise c).evaluate = s.evaluate := rfl
@[simp] theorem State.raise_order (c : Status) (s : State) : (s.raise c).order = s.order := rfl
@[simp] theorem State.raise_cuts (c : Status) (s : State) : (s.raise c).cuts = s.cuts := rfl
@[simp] theorem State.raise_pending (c : Status) (s : State) : (s.raise c).pending = s.pending := rfl

/-! ### State.setChannel -/

@[simp] theorem State.setChannel_now (g : ChannelId) (ch : Channel) (s : State) :
    (s.setChannel g ch).now = s.now := rfl
@[simp] theorem State.setChannel_powered (g : ChannelId) (ch : Channel) (s : State) :
    (s.setChannel g ch).powered = s.powered := rfl
@[simp] theorem State.setChannel_cfg (g : ChannelId) (ch : Channel) (s : State) :
    (s.setChannel g ch).cfg = s.cfg := rfl
@[simp] theorem State.setChannel_dt (g : ChannelId) (ch : Channel) (s : State) : (s.setChannel g ch).dt = s.dt := rfl
@[simp] theorem State.setChannel_cc (g : ChannelId) (ch : Channel) (s : State) : (s.setChannel g ch).cc = s.cc := rfl
@[simp] theorem State.setChannel_ibu (g : ChannelId) (ch : Channel) (s : State) :
    (s.setChannel g ch).ibu = s.ibu := rfl
@[simp] theorem State.setChannel_fu (g : ChannelId) (ch : Channel) (s : State) : (s.setChannel g ch).fu = s.fu := rfl
@[simp] theorem State.setChannel_ge (g : ChannelId) (ch : Channel) (s : State) :
    (s.setChannel g ch).ge = s.ge.set g ch := rfl
@[simp] theorem State.setChannel_sbu (g : ChannelId) (ch : Channel) (s : State) :
    (s.setChannel g ch).sbu = s.sbu := rfl
@[simp] theorem State.setChannel_lp (g : ChannelId) (ch : Channel) (s : State) : (s.setChannel g ch).lp = s.lp := rfl
@[simp] theorem State.setChannel_cs (g : ChannelId) (ch : Channel) (s : State) : (s.setChannel g ch).cs = s.cs := rfl
@[simp] theorem State.setChannel_evaluate (g : ChannelId) (ch : Channel) (s : State) :
    (s.setChannel g ch).evaluate = s.evaluate := rfl
@[simp] theorem State.setChannel_order (g : ChannelId) (ch : Channel) (s : State) :
    (s.setChannel g ch).order = s.order := rfl
@[simp] theorem State.setChannel_cuts (g : ChannelId) (ch : Channel) (s : State) :
    (s.setChannel g ch).cuts = s.cuts := rfl
@[simp] theorem State.setChannel_pending (g : ChannelId) (ch : Channel) (s : State) :
    (s.setChannel g ch).pending = s.pending := rfl

/-! ### State.setCircuit -/

@[simp] theorem State.setCircuit_now (c : CircuitId) (r : Circuit) (s : State) : (s.setCircuit c r).now = s.now := rfl
@[simp] theorem State.setCircuit_powered (c : CircuitId) (r : Circuit) (s : State) :
    (s.setCircuit c r).powered = s.powered := rfl
@[simp] theorem State.setCircuit_cfg (c : CircuitId) (r : Circuit) (s : State) : (s.setCircuit c r).cfg = s.cfg := rfl
@[simp] theorem State.setCircuit_dt (c : CircuitId) (r : Circuit) (s : State) : (s.setCircuit c r).dt = s.dt := rfl
@[simp] theorem State.setCircuit_cc (c : CircuitId) (r : Circuit) (s : State) :
    (s.setCircuit c r).cc = s.cc.set c r := rfl
@[simp] theorem State.setCircuit_ibu (c : CircuitId) (r : Circuit) (s : State) : (s.setCircuit c r).ibu = s.ibu := rfl
@[simp] theorem State.setCircuit_fu (c : CircuitId) (r : Circuit) (s : State) : (s.setCircuit c r).fu = s.fu := rfl
@[simp] theorem State.setCircuit_ge (c : CircuitId) (r : Circuit) (s : State) : (s.setCircuit c r).ge = s.ge := rfl
@[simp] theorem State.setCircuit_sbu (c : CircuitId) (r : Circuit) (s : State) : (s.setCircuit c r).sbu = s.sbu := rfl
@[simp] theorem State.setCircuit_lp (c : CircuitId) (r : Circuit) (s : State) :
    (s.setCircuit c r).lp = s.lp.raiseIf .shedChanged (decide (r.shed.isSome ≠ (s.cc[c]).shed.isSome)) := rfl
@[simp] theorem State.setCircuit_cs (c : CircuitId) (r : Circuit) (s : State) : (s.setCircuit c r).cs = s.cs := rfl
@[simp] theorem State.setCircuit_evaluate (c : CircuitId) (r : Circuit) (s : State) :
    (s.setCircuit c r).evaluate = s.evaluate := rfl
@[simp] theorem State.setCircuit_order (c : CircuitId) (r : Circuit) (s : State) :
    (s.setCircuit c r).order = s.order := rfl
@[simp] theorem State.setCircuit_cuts (c : CircuitId) (r : Circuit) (s : State) :
    (s.setCircuit c r).cuts = s.cuts := rfl
@[simp] theorem State.setCircuit_pending (c : CircuitId) (r : Circuit) (s : State) :
    (s.setCircuit c r).pending = s.pending := rfl

/-! ### State.setBinding -/

@[simp] theorem State.setBinding_now (n : BindingId) (b : BindingState) (s : State) :
    (s.setBinding n b).now = s.now := rfl
@[simp] theorem State.setBinding_powered (n : BindingId) (b : BindingState) (s : State) :
    (s.setBinding n b).powered = s.powered := rfl
@[simp] theorem State.setBinding_cfg (n : BindingId) (b : BindingState) (s : State) :
    (s.setBinding n b).cfg = s.cfg := rfl
@[simp] theorem State.setBinding_dt (n : BindingId) (b : BindingState) (s : State) :
    (s.setBinding n b).dt = s.dt := rfl
@[simp] theorem State.setBinding_cc (n : BindingId) (b : BindingState) (s : State) :
    (s.setBinding n b).cc = s.cc := rfl
@[simp] theorem State.setBinding_ibu (n : BindingId) (b : BindingState) (s : State) :
    (s.setBinding n b).ibu = { s.ibu with bindings := s.ibu.bindings.set n b } := rfl
@[simp] theorem State.setBinding_fu (n : BindingId) (b : BindingState) (s : State) :
    (s.setBinding n b).fu = s.fu := rfl
@[simp] theorem State.setBinding_ge (n : BindingId) (b : BindingState) (s : State) :
    (s.setBinding n b).ge = s.ge := rfl
@[simp] theorem State.setBinding_sbu (n : BindingId) (b : BindingState) (s : State) :
    (s.setBinding n b).sbu = s.sbu := rfl
@[simp] theorem State.setBinding_lp (n : BindingId) (b : BindingState) (s : State) :
    (s.setBinding n b).lp = s.lp := rfl
@[simp] theorem State.setBinding_cs (n : BindingId) (b : BindingState) (s : State) :
    (s.setBinding n b).cs = s.cs := rfl
@[simp] theorem State.setBinding_evaluate (n : BindingId) (b : BindingState) (s : State) :
    (s.setBinding n b).evaluate = s.evaluate := rfl
@[simp] theorem State.setBinding_order (n : BindingId) (b : BindingState) (s : State) :
    (s.setBinding n b).order = s.order := rfl
@[simp] theorem State.setBinding_cuts (n : BindingId) (b : BindingState) (s : State) :
    (s.setBinding n b).cuts = s.cuts := rfl
@[simp] theorem State.setBinding_pending (n : BindingId) (b : BindingState) (s : State) :
    (s.setBinding n b).pending = s.pending := rfl

/-! ### State.setHeld -/

@[simp] theorem State.setHeld_now (n : BindingId) (h : Held) (s : State) : (s.setHeld n h).now = s.now := rfl
@[simp] theorem State.setHeld_powered (n : BindingId) (h : Held) (s : State) :
    (s.setHeld n h).powered = s.powered := rfl
@[simp] theorem State.setHeld_cfg (n : BindingId) (h : Held) (s : State) : (s.setHeld n h).cfg = s.cfg := rfl
@[simp] theorem State.setHeld_dt (n : BindingId) (h : Held) (s : State) : (s.setHeld n h).dt = s.dt := rfl
@[simp] theorem State.setHeld_cc (n : BindingId) (h : Held) (s : State) : (s.setHeld n h).cc = s.cc := rfl
@[simp] theorem State.setHeld_ibu (n : BindingId) (h : Held) (s : State) :
    (s.setHeld n h).ibu = { s.ibu with bindings := s.ibu.bindings.set n { s.ibu.bindings[n] with held := h } } := rfl
@[simp] theorem State.setHeld_fu (n : BindingId) (h : Held) (s : State) : (s.setHeld n h).fu = s.fu := rfl
@[simp] theorem State.setHeld_ge (n : BindingId) (h : Held) (s : State) : (s.setHeld n h).ge = s.ge := rfl
@[simp] theorem State.setHeld_sbu (n : BindingId) (h : Held) (s : State) : (s.setHeld n h).sbu = s.sbu := rfl
@[simp] theorem State.setHeld_lp (n : BindingId) (h : Held) (s : State) : (s.setHeld n h).lp = s.lp := rfl
@[simp] theorem State.setHeld_cs (n : BindingId) (h : Held) (s : State) : (s.setHeld n h).cs = s.cs := rfl
@[simp] theorem State.setHeld_evaluate (n : BindingId) (h : Held) (s : State) :
    (s.setHeld n h).evaluate = s.evaluate := rfl
@[simp] theorem State.setHeld_order (n : BindingId) (h : Held) (s : State) : (s.setHeld n h).order = s.order := rfl
@[simp] theorem State.setHeld_cuts (n : BindingId) (h : Held) (s : State) : (s.setHeld n h).cuts = s.cuts := rfl
@[simp] theorem State.setHeld_pending (n : BindingId) (h : Held) (s : State) :
    (s.setHeld n h).pending = s.pending := rfl

/-! ### State.acknowledge -/

@[simp] theorem State.acknowledge_now (m : StatusSet) (s : State) : (s.acknowledge m).now = s.now := rfl
@[simp] theorem State.acknowledge_powered (m : StatusSet) (s : State) : (s.acknowledge m).powered = s.powered := rfl
@[simp] theorem State.acknowledge_cfg (m : StatusSet) (s : State) : (s.acknowledge m).cfg = s.cfg := rfl
@[simp] theorem State.acknowledge_dt (m : StatusSet) (s : State) : (s.acknowledge m).dt = s.dt := rfl
@[simp] theorem State.acknowledge_cc (m : StatusSet) (s : State) : (s.acknowledge m).cc = s.cc := rfl
@[simp] theorem State.acknowledge_ibu (m : StatusSet) (s : State) : (s.acknowledge m).ibu = s.ibu := rfl
@[simp] theorem State.acknowledge_fu (m : StatusSet) (s : State) : (s.acknowledge m).fu = s.fu := rfl
@[simp] theorem State.acknowledge_ge (m : StatusSet) (s : State) : (s.acknowledge m).ge = s.ge := rfl
@[simp] theorem State.acknowledge_sbu (m : StatusSet) (s : State) : (s.acknowledge m).sbu = s.sbu := rfl
@[simp] theorem State.acknowledge_lp (m : StatusSet) (s : State) :
    (s.acknowledge m).lp = { s.lp with pending := s.lp.pending &&& ~~~m } := rfl
@[simp] theorem State.acknowledge_cs (m : StatusSet) (s : State) : (s.acknowledge m).cs = s.cs := rfl
@[simp] theorem State.acknowledge_evaluate (m : StatusSet) (s : State) :
    (s.acknowledge m).evaluate = s.evaluate := rfl
@[simp] theorem State.acknowledge_order (m : StatusSet) (s : State) : (s.acknowledge m).order = s.order := rfl
@[simp] theorem State.acknowledge_cuts (m : StatusSet) (s : State) : (s.acknowledge m).cuts = s.cuts := rfl
@[simp] theorem State.acknowledge_pending (m : StatusSet) (s : State) : (s.acknowledge m).pending = s.pending := rfl

/-! ### State.answer -/

@[simp] theorem State.answer_now (code : Byte) (r : Reply) (s : State) : (s.answer code r).now = s.now := rfl
@[simp] theorem State.answer_powered (code : Byte) (r : Reply) (s : State) :
    (s.answer code r).powered = s.powered := rfl
@[simp] theorem State.answer_cfg (code : Byte) (r : Reply) (s : State) : (s.answer code r).cfg = s.cfg := rfl
@[simp] theorem State.answer_dt (code : Byte) (r : Reply) (s : State) : (s.answer code r).dt = s.dt := rfl
@[simp] theorem State.answer_cc (code : Byte) (r : Reply) (s : State) : (s.answer code r).cc = s.cc := rfl
@[simp] theorem State.answer_ibu (code : Byte) (r : Reply) (s : State) : (s.answer code r).ibu = s.ibu := rfl
@[simp] theorem State.answer_fu (code : Byte) (r : Reply) (s : State) : (s.answer code r).fu = s.fu := rfl
@[simp] theorem State.answer_ge (code : Byte) (r : Reply) (s : State) : (s.answer code r).ge = s.ge := rfl
@[simp] theorem State.answer_sbu (code : Byte) (r : Reply) (s : State) : (s.answer code r).sbu = s.sbu := rfl
@[simp] theorem State.answer_lp (code : Byte) (r : Reply) (s : State) :
    (s.answer code r).lp = { s.lp with response := some (responseBytes r.result r.data), last := ⟨code, r.result, r.handle⟩ } := rfl
@[simp] theorem State.answer_cs (code : Byte) (r : Reply) (s : State) : (s.answer code r).cs = s.cs := rfl
@[simp] theorem State.answer_evaluate (code : Byte) (r : Reply) (s : State) :
    (s.answer code r).evaluate = s.evaluate := rfl
@[simp] theorem State.answer_order (code : Byte) (r : Reply) (s : State) : (s.answer code r).order = s.order := rfl
@[simp] theorem State.answer_cuts (code : Byte) (r : Reply) (s : State) : (s.answer code r).cuts = s.cuts := rfl
@[simp] theorem State.answer_pending (code : Byte) (r : Reply) (s : State) :
    (s.answer code r).pending = s.pending := rfl

/-! ### State.setWindow -/

@[simp] theorem State.setWindow_now (w : Window) (s : State) : (s.setWindow w).now = s.now := rfl
@[simp] theorem State.setWindow_powered (w : Window) (s : State) : (s.setWindow w).powered = s.powered := rfl
@[simp] theorem State.setWindow_cfg (w : Window) (s : State) : (s.setWindow w).cfg = s.cfg := rfl
@[simp] theorem State.setWindow_dt (w : Window) (s : State) : (s.setWindow w).dt = s.dt := rfl
@[simp] theorem State.setWindow_cc (w : Window) (s : State) : (s.setWindow w).cc = s.cc := rfl
@[simp] theorem State.setWindow_ibu (w : Window) (s : State) : (s.setWindow w).ibu = s.ibu := rfl
@[simp] theorem State.setWindow_fu (w : Window) (s : State) : (s.setWindow w).fu = s.fu := rfl
@[simp] theorem State.setWindow_ge (w : Window) (s : State) : (s.setWindow w).ge = s.ge := rfl
@[simp] theorem State.setWindow_sbu (w : Window) (s : State) : (s.setWindow w).sbu = s.sbu := rfl
@[simp] theorem State.setWindow_lp (w : Window) (s : State) :
    (s.setWindow w).lp = { s.lp with window := some w } := rfl
@[simp] theorem State.setWindow_cs (w : Window) (s : State) : (s.setWindow w).cs = s.cs := rfl
@[simp] theorem State.setWindow_evaluate (w : Window) (s : State) : (s.setWindow w).evaluate = s.evaluate := rfl
@[simp] theorem State.setWindow_order (w : Window) (s : State) : (s.setWindow w).order = s.order := rfl
@[simp] theorem State.setWindow_cuts (w : Window) (s : State) : (s.setWindow w).cuts = s.cuts := rfl
@[simp] theorem State.setWindow_pending (w : Window) (s : State) : (s.setWindow w).pending = s.pending := rfl

/-! ### State.wantEvaluation -/

@[simp] theorem State.wantEvaluation_now (s : State) : (s.wantEvaluation).now = s.now := rfl
@[simp] theorem State.wantEvaluation_powered (s : State) : (s.wantEvaluation).powered = s.powered := rfl
@[simp] theorem State.wantEvaluation_cfg (s : State) : (s.wantEvaluation).cfg = s.cfg := rfl
@[simp] theorem State.wantEvaluation_dt (s : State) : (s.wantEvaluation).dt = s.dt := rfl
@[simp] theorem State.wantEvaluation_cc (s : State) : (s.wantEvaluation).cc = s.cc := rfl
@[simp] theorem State.wantEvaluation_ibu (s : State) : (s.wantEvaluation).ibu = s.ibu := rfl
@[simp] theorem State.wantEvaluation_fu (s : State) : (s.wantEvaluation).fu = s.fu := rfl
@[simp] theorem State.wantEvaluation_ge (s : State) : (s.wantEvaluation).ge = s.ge := rfl
@[simp] theorem State.wantEvaluation_sbu (s : State) : (s.wantEvaluation).sbu = s.sbu := rfl
@[simp] theorem State.wantEvaluation_lp (s : State) : (s.wantEvaluation).lp = s.lp := rfl
@[simp] theorem State.wantEvaluation_cs (s : State) : (s.wantEvaluation).cs = s.cs := rfl
@[simp] theorem State.wantEvaluation_evaluate (s : State) : (s.wantEvaluation).evaluate = true := rfl
@[simp] theorem State.wantEvaluation_order (s : State) : (s.wantEvaluation).order = s.order := rfl
@[simp] theorem State.wantEvaluation_cuts (s : State) : (s.wantEvaluation).cuts = s.cuts := rfl
@[simp] theorem State.wantEvaluation_pending (s : State) : (s.wantEvaluation).pending = s.pending := rfl

/-! ### State.restartSleep -/

@[simp] theorem State.restartSleep_now (s : State) : (s.restartSleep).now = s.now := rfl
@[simp] theorem State.restartSleep_powered (s : State) : (s.restartSleep).powered = s.powered := rfl
@[simp] theorem State.restartSleep_cfg (s : State) : (s.restartSleep).cfg = s.cfg := rfl
@[simp] theorem State.restartSleep_dt (s : State) : (s.restartSleep).dt = s.dt := rfl
@[simp] theorem State.restartSleep_cc (s : State) : (s.restartSleep).cc = s.cc := rfl
@[simp] theorem State.restartSleep_ibu (s : State) : (s.restartSleep).ibu = s.ibu := rfl
@[simp] theorem State.restartSleep_fu (s : State) : (s.restartSleep).fu = s.fu := rfl
@[simp] theorem State.restartSleep_ge (s : State) : (s.restartSleep).ge = s.ge := rfl
@[simp] theorem State.restartSleep_sbu (s : State) :
    (s.restartSleep).sbu = { s.sbu with sleepSince := s.sbu.sleepSince.map (fun _ => s.now) } := rfl
@[simp] theorem State.restartSleep_lp (s : State) : (s.restartSleep).lp = s.lp := rfl
@[simp] theorem State.restartSleep_cs (s : State) : (s.restartSleep).cs = s.cs := rfl
@[simp] theorem State.restartSleep_evaluate (s : State) : (s.restartSleep).evaluate = s.evaluate := rfl
@[simp] theorem State.restartSleep_order (s : State) : (s.restartSleep).order = s.order := rfl
@[simp] theorem State.restartSleep_cuts (s : State) : (s.restartSleep).cuts = s.cuts := rfl
@[simp] theorem State.restartSleep_pending (s : State) : (s.restartSleep).pending = s.pending := rfl

/-! ### State.beginSave -/

@[simp] theorem State.beginSave_now (lock : Bool) (s : State) : (s.beginSave lock).now = s.now := rfl
@[simp] theorem State.beginSave_powered (lock : Bool) (s : State) : (s.beginSave lock).powered = s.powered := rfl
@[simp] theorem State.beginSave_cfg (lock : Bool) (s : State) : (s.beginSave lock).cfg = s.cfg := rfl
@[simp] theorem State.beginSave_dt (lock : Bool) (s : State) : (s.beginSave lock).dt = s.dt := rfl
@[simp] theorem State.beginSave_cc (lock : Bool) (s : State) : (s.beginSave lock).cc = s.cc := rfl
@[simp] theorem State.beginSave_ibu (lock : Bool) (s : State) : (s.beginSave lock).ibu = s.ibu := rfl
@[simp] theorem State.beginSave_fu (lock : Bool) (s : State) : (s.beginSave lock).fu = s.fu := rfl
@[simp] theorem State.beginSave_ge (lock : Bool) (s : State) : (s.beginSave lock).ge = s.ge := rfl
@[simp] theorem State.beginSave_sbu (lock : Bool) (s : State) : (s.beginSave lock).sbu = s.sbu := rfl
@[simp] theorem State.beginSave_lp (lock : Bool) (s : State) : (s.beginSave lock).lp = s.lp := rfl
@[simp] theorem State.beginSave_cs (lock : Bool) (s : State) :
    (s.beginSave lock).cs = { s.cs with state := .saving 0, buffer := some (imageOf lock s.cfg) } := rfl
@[simp] theorem State.beginSave_evaluate (lock : Bool) (s : State) : (s.beginSave lock).evaluate = s.evaluate := rfl
@[simp] theorem State.beginSave_order (lock : Bool) (s : State) : (s.beginSave lock).order = s.order := rfl
@[simp] theorem State.beginSave_cuts (lock : Bool) (s : State) : (s.beginSave lock).cuts = s.cuts := rfl
@[simp] theorem State.beginSave_pending (lock : Bool) (s : State) : (s.beginSave lock).pending = s.pending := rfl

/-! ### State.beginErase -/

@[simp] theorem State.beginErase_now (s : State) : (s.beginErase).now = s.now := rfl
@[simp] theorem State.beginErase_powered (s : State) : (s.beginErase).powered = s.powered := rfl
@[simp] theorem State.beginErase_cfg (s : State) : (s.beginErase).cfg = s.cfg := rfl
@[simp] theorem State.beginErase_dt (s : State) : (s.beginErase).dt = s.dt := rfl
@[simp] theorem State.beginErase_cc (s : State) : (s.beginErase).cc = s.cc := rfl
@[simp] theorem State.beginErase_ibu (s : State) : (s.beginErase).ibu = s.ibu := rfl
@[simp] theorem State.beginErase_fu (s : State) : (s.beginErase).fu = s.fu := rfl
@[simp] theorem State.beginErase_ge (s : State) : (s.beginErase).ge = s.ge := rfl
@[simp] theorem State.beginErase_sbu (s : State) : (s.beginErase).sbu = s.sbu := rfl
@[simp] theorem State.beginErase_lp (s : State) : (s.beginErase).lp = s.lp := rfl
@[simp] theorem State.beginErase_cs (s : State) : (s.beginErase).cs = { s.cs with state := .erasing 0 } := rfl
@[simp] theorem State.beginErase_evaluate (s : State) : (s.beginErase).evaluate = s.evaluate := rfl
@[simp] theorem State.beginErase_order (s : State) : (s.beginErase).order = s.order := rfl
@[simp] theorem State.beginErase_cuts (s : State) : (s.beginErase).cuts = s.cuts := rfl
@[simp] theorem State.beginErase_pending (s : State) : (s.beginErase).pending = s.pending := rfl

/-! ### State.pageSaved -/

@[simp] theorem State.pageSaved_now (page : Nat) (d : PageDefects) (s : State) :
    (s.pageSaved page d).now = s.now := rfl
@[simp] theorem State.pageSaved_powered (page : Nat) (d : PageDefects) (s : State) :
    (s.pageSaved page d).powered = s.powered := rfl
@[simp] theorem State.pageSaved_cfg (page : Nat) (d : PageDefects) (s : State) :
    (s.pageSaved page d).cfg = s.cfg := rfl
@[simp] theorem State.pageSaved_dt (page : Nat) (d : PageDefects) (s : State) : (s.pageSaved page d).dt = s.dt := rfl
@[simp] theorem State.pageSaved_cc (page : Nat) (d : PageDefects) (s : State) : (s.pageSaved page d).cc = s.cc := rfl
@[simp] theorem State.pageSaved_ibu (page : Nat) (d : PageDefects) (s : State) :
    (s.pageSaved page d).ibu = s.ibu := rfl
@[simp] theorem State.pageSaved_fu (page : Nat) (d : PageDefects) (s : State) : (s.pageSaved page d).fu = s.fu := rfl
@[simp] theorem State.pageSaved_ge (page : Nat) (d : PageDefects) (s : State) : (s.pageSaved page d).ge = s.ge := rfl
@[simp] theorem State.pageSaved_sbu (page : Nat) (d : PageDefects) (s : State) :
    (s.pageSaved page d).sbu = s.sbu := rfl
@[simp] theorem State.pageSaved_lp (page : Nat) (d : PageDefects) (s : State) : (s.pageSaved page d).lp = s.lp := rfl
@[simp] theorem State.pageSaved_evaluate (page : Nat) (d : PageDefects) (s : State) :
    (s.pageSaved page d).evaluate = s.evaluate := rfl
@[simp] theorem State.pageSaved_order (page : Nat) (d : PageDefects) (s : State) :
    (s.pageSaved page d).order = s.order := rfl
@[simp] theorem State.pageSaved_cuts (page : Nat) (d : PageDefects) (s : State) :
    (s.pageSaved page d).cuts = s.cuts := rfl
@[simp] theorem State.pageSaved_pending (page : Nat) (d : PageDefects) (s : State) :
    (s.pageSaved page d).pending = s.pending := rfl

/-! ### State.pageErased -/

@[simp] theorem State.pageErased_now (page : Nat) (d : PageDefects) (s : State) :
    (s.pageErased page d).now = s.now := rfl
@[simp] theorem State.pageErased_powered (page : Nat) (d : PageDefects) (s : State) :
    (s.pageErased page d).powered = s.powered := rfl
@[simp] theorem State.pageErased_cfg (page : Nat) (d : PageDefects) (s : State) :
    (s.pageErased page d).cfg = s.cfg := rfl
@[simp] theorem State.pageErased_dt (page : Nat) (d : PageDefects) (s : State) :
    (s.pageErased page d).dt = s.dt := rfl
@[simp] theorem State.pageErased_cc (page : Nat) (d : PageDefects) (s : State) :
    (s.pageErased page d).cc = s.cc := rfl
@[simp] theorem State.pageErased_ibu (page : Nat) (d : PageDefects) (s : State) :
    (s.pageErased page d).ibu = s.ibu := rfl
@[simp] theorem State.pageErased_fu (page : Nat) (d : PageDefects) (s : State) :
    (s.pageErased page d).fu = s.fu := rfl
@[simp] theorem State.pageErased_ge (page : Nat) (d : PageDefects) (s : State) :
    (s.pageErased page d).ge = s.ge := rfl
@[simp] theorem State.pageErased_sbu (page : Nat) (d : PageDefects) (s : State) :
    (s.pageErased page d).sbu = s.sbu := rfl
@[simp] theorem State.pageErased_lp (page : Nat) (d : PageDefects) (s : State) :
    (s.pageErased page d).lp = s.lp := rfl
@[simp] theorem State.pageErased_evaluate (page : Nat) (d : PageDefects) (s : State) :
    (s.pageErased page d).evaluate = s.evaluate := rfl
@[simp] theorem State.pageErased_order (page : Nat) (d : PageDefects) (s : State) :
    (s.pageErased page d).order = s.order := rfl
@[simp] theorem State.pageErased_cuts (page : Nat) (d : PageDefects) (s : State) :
    (s.pageErased page d).cuts = s.cuts := rfl
@[simp] theorem State.pageErased_pending (page : Nat) (d : PageDefects) (s : State) :
    (s.pageErased page d).pending = s.pending := rfl

/-! ### State.wire -/

@[simp] theorem State.wire_now (low : Bool) (s : State) : (s.wire low).now = s.now := rfl
@[simp] theorem State.wire_powered (low : Bool) (s : State) : (s.wire low).powered = s.powered := rfl
@[simp] theorem State.wire_cfg (low : Bool) (s : State) : (s.wire low).cfg = s.cfg := rfl
@[simp] theorem State.wire_dt (low : Bool) (s : State) : (s.wire low).dt = s.dt := rfl
@[simp] theorem State.wire_cc (low : Bool) (s : State) : (s.wire low).cc = s.cc := rfl
@[simp] theorem State.wire_ibu (low : Bool) (s : State) : (s.wire low).ibu = s.ibu := rfl
@[simp] theorem State.wire_fu (low : Bool) (s : State) :
    (s.wire low).fu = if s.powered then s.fu.wire low else { s.fu with wireLow := low } := rfl
@[simp] theorem State.wire_ge (low : Bool) (s : State) : (s.wire low).ge = s.ge := rfl
@[simp] theorem State.wire_sbu (low : Bool) (s : State) : (s.wire low).sbu = s.sbu := rfl
@[simp] theorem State.wire_lp (low : Bool) (s : State) : (s.wire low).lp = s.lp := rfl
@[simp] theorem State.wire_cs (low : Bool) (s : State) : (s.wire low).cs = s.cs := rfl
@[simp] theorem State.wire_evaluate (low : Bool) (s : State) : (s.wire low).evaluate = s.evaluate := rfl
@[simp] theorem State.wire_order (low : Bool) (s : State) : (s.wire low).order = s.order := rfl
@[simp] theorem State.wire_cuts (low : Bool) (s : State) : (s.wire low).cuts = s.cuts := rfl
@[simp] theorem State.wire_pending (low : Bool) (s : State) : (s.wire low).pending = s.pending := rfl

/-! ### State.endPulse -/

@[simp] theorem State.endPulse_now (s : State) : (s.endPulse).now = s.now := rfl
@[simp] theorem State.endPulse_powered (s : State) : (s.endPulse).powered = s.powered := rfl
@[simp] theorem State.endPulse_cfg (s : State) : (s.endPulse).cfg = s.cfg := rfl
@[simp] theorem State.endPulse_dt (s : State) : (s.endPulse).dt = s.dt := rfl
@[simp] theorem State.endPulse_cc (s : State) : (s.endPulse).cc = s.cc := rfl
@[simp] theorem State.endPulse_ibu (s : State) : (s.endPulse).ibu = s.ibu := rfl
@[simp] theorem State.endPulse_fu (s : State) : (s.endPulse).fu = { s.fu with tick := false, tickDue := none } := rfl
@[simp] theorem State.endPulse_ge (s : State) : (s.endPulse).ge = s.ge := rfl
@[simp] theorem State.endPulse_sbu (s : State) : (s.endPulse).sbu = s.sbu := rfl
@[simp] theorem State.endPulse_lp (s : State) : (s.endPulse).lp = s.lp := rfl
@[simp] theorem State.endPulse_cs (s : State) : (s.endPulse).cs = s.cs := rfl
@[simp] theorem State.endPulse_evaluate (s : State) : (s.endPulse).evaluate = s.evaluate := rfl
@[simp] theorem State.endPulse_order (s : State) : (s.endPulse).order = s.order := rfl
@[simp] theorem State.endPulse_cuts (s : State) : (s.endPulse).cuts = s.cuts := rfl
@[simp] theorem State.endPulse_pending (s : State) : (s.endPulse).pending = s.pending := rfl

/-! ### State.convert -/

@[simp] theorem State.convert_now (g : ChannelId) (code : Nat) (s : State) : (s.convert g code).now = s.now := rfl
@[simp] theorem State.convert_powered (g : ChannelId) (code : Nat) (s : State) :
    (s.convert g code).powered = s.powered := rfl
@[simp] theorem State.convert_cfg (g : ChannelId) (code : Nat) (s : State) : (s.convert g code).cfg = s.cfg := rfl
@[simp] theorem State.convert_dt (g : ChannelId) (code : Nat) (s : State) : (s.convert g code).dt = s.dt := rfl
@[simp] theorem State.convert_cc (g : ChannelId) (code : Nat) (s : State) : (s.convert g code).cc = s.cc := rfl
@[simp] theorem State.convert_ibu (g : ChannelId) (code : Nat) (s : State) : (s.convert g code).ibu = s.ibu := rfl
@[simp] theorem State.convert_fu (g : ChannelId) (code : Nat) (s : State) : (s.convert g code).fu = s.fu := rfl
@[simp] theorem State.convert_sbu (g : ChannelId) (code : Nat) (s : State) : (s.convert g code).sbu = s.sbu := rfl
@[simp] theorem State.convert_lp (g : ChannelId) (code : Nat) (s : State) : (s.convert g code).lp = s.lp := rfl
@[simp] theorem State.convert_cs (g : ChannelId) (code : Nat) (s : State) : (s.convert g code).cs = s.cs := rfl
@[simp] theorem State.convert_evaluate (g : ChannelId) (code : Nat) (s : State) :
    (s.convert g code).evaluate = s.evaluate := rfl
@[simp] theorem State.convert_order (g : ChannelId) (code : Nat) (s : State) :
    (s.convert g code).order = s.order := rfl
@[simp] theorem State.convert_cuts (g : ChannelId) (code : Nat) (s : State) : (s.convert g code).cuts = s.cuts := rfl
@[simp] theorem State.convert_pending (g : ChannelId) (code : Nat) (s : State) :
    (s.convert g code).pending = s.pending := rfl

/-! ### State.clearFaultAt -/

@[simp] theorem State.clearFaultAt_now (c : CircuitId) (s : State) : (s.clearFaultAt c).now = s.now := rfl
@[simp] theorem State.clearFaultAt_powered (c : CircuitId) (s : State) : (s.clearFaultAt c).powered = s.powered := rfl
@[simp] theorem State.clearFaultAt_cfg (c : CircuitId) (s : State) : (s.clearFaultAt c).cfg = s.cfg := rfl
@[simp] theorem State.clearFaultAt_dt (c : CircuitId) (s : State) : (s.clearFaultAt c).dt = s.dt := rfl
@[simp] theorem State.clearFaultAt_cc (c : CircuitId) (s : State) :
    (s.clearFaultAt c).cc = s.cc.set c ((s.cc[c]).clearFault s.cfg.circuits[c] s.cfg.fan s.now) := rfl
@[simp] theorem State.clearFaultAt_ibu (c : CircuitId) (s : State) : (s.clearFaultAt c).ibu = s.ibu := rfl
@[simp] theorem State.clearFaultAt_fu (c : CircuitId) (s : State) : (s.clearFaultAt c).fu = s.fu := rfl
@[simp] theorem State.clearFaultAt_ge (c : CircuitId) (s : State) : (s.clearFaultAt c).ge = s.ge := rfl
@[simp] theorem State.clearFaultAt_sbu (c : CircuitId) (s : State) : (s.clearFaultAt c).sbu = s.sbu := rfl
@[simp] theorem State.clearFaultAt_lp (c : CircuitId) (s : State) : (s.clearFaultAt c).lp = s.lp := rfl
@[simp] theorem State.clearFaultAt_cs (c : CircuitId) (s : State) : (s.clearFaultAt c).cs = s.cs := rfl
@[simp] theorem State.clearFaultAt_evaluate (c : CircuitId) (s : State) :
    (s.clearFaultAt c).evaluate = s.evaluate := rfl
@[simp] theorem State.clearFaultAt_order (c : CircuitId) (s : State) : (s.clearFaultAt c).order = s.order := rfl
@[simp] theorem State.clearFaultAt_cuts (c : CircuitId) (s : State) : (s.clearFaultAt c).cuts = s.cuts := rfl
@[simp] theorem State.clearFaultAt_pending (c : CircuitId) (s : State) : (s.clearFaultAt c).pending = s.pending := rfl

/-! ### State.circuitEvent -/

@[simp] theorem State.circuitEvent_now (c : CircuitId) (f : Circuit → Circuit) (s : State) :
    (s.circuitEvent c f).now = s.now := rfl
@[simp] theorem State.circuitEvent_powered (c : CircuitId) (f : Circuit → Circuit) (s : State) :
    (s.circuitEvent c f).powered = s.powered := rfl
@[simp] theorem State.circuitEvent_cfg (c : CircuitId) (f : Circuit → Circuit) (s : State) :
    (s.circuitEvent c f).cfg = s.cfg := rfl
@[simp] theorem State.circuitEvent_dt (c : CircuitId) (f : Circuit → Circuit) (s : State) :
    (s.circuitEvent c f).dt = s.dt := rfl
@[simp] theorem State.circuitEvent_cc (c : CircuitId) (f : Circuit → Circuit) (s : State) :
    (s.circuitEvent c f).cc = s.cc.set c (f s.cc[c]) := rfl
@[simp] theorem State.circuitEvent_ibu (c : CircuitId) (f : Circuit → Circuit) (s : State) :
    (s.circuitEvent c f).ibu = s.ibu := rfl
@[simp] theorem State.circuitEvent_fu (c : CircuitId) (f : Circuit → Circuit) (s : State) :
    (s.circuitEvent c f).fu = s.fu := rfl
@[simp] theorem State.circuitEvent_ge (c : CircuitId) (f : Circuit → Circuit) (s : State) :
    (s.circuitEvent c f).ge = s.ge := rfl
@[simp] theorem State.circuitEvent_sbu (c : CircuitId) (f : Circuit → Circuit) (s : State) :
    (s.circuitEvent c f).sbu = s.sbu := rfl
@[simp] theorem State.circuitEvent_cs (c : CircuitId) (f : Circuit → Circuit) (s : State) :
    (s.circuitEvent c f).cs = s.cs := rfl
@[simp] theorem State.circuitEvent_evaluate (c : CircuitId) (f : Circuit → Circuit) (s : State) :
    (s.circuitEvent c f).evaluate = s.evaluate := rfl
@[simp] theorem State.circuitEvent_order (c : CircuitId) (f : Circuit → Circuit) (s : State) :
    (s.circuitEvent c f).order = s.order := rfl
@[simp] theorem State.circuitEvent_cuts (c : CircuitId) (f : Circuit → Circuit) (s : State) :
    (s.circuitEvent c f).cuts = s.cuts := rfl
@[simp] theorem State.circuitEvent_pending (c : CircuitId) (f : Circuit → Circuit) (s : State) :
    (s.circuitEvent c f).pending = s.pending := rfl

/-! ### State.evaluationTick -/

@[simp] theorem State.evaluationTick_now (s : State) : (s.evaluationTick).now = s.now := rfl
@[simp] theorem State.evaluationTick_powered (s : State) : (s.evaluationTick).powered = s.powered := rfl
@[simp] theorem State.evaluationTick_cfg (s : State) : (s.evaluationTick).cfg = s.cfg := rfl
@[simp] theorem State.evaluationTick_dt (s : State) : (s.evaluationTick).dt = s.dt := rfl
@[simp] theorem State.evaluationTick_cc (s : State) : (s.evaluationTick).cc = s.cc := rfl
@[simp] theorem State.evaluationTick_ibu (s : State) : (s.evaluationTick).ibu = s.ibu := rfl
@[simp] theorem State.evaluationTick_fu (s : State) : (s.evaluationTick).fu = s.fu := rfl
@[simp] theorem State.evaluationTick_ge (s : State) : (s.evaluationTick).ge = s.ge := rfl
@[simp] theorem State.evaluationTick_sbu (s : State) :
    (s.evaluationTick).sbu = { s.sbu with evaluateDue := some (s.now + 1000) } := rfl
@[simp] theorem State.evaluationTick_lp (s : State) : (s.evaluationTick).lp = s.lp := rfl
@[simp] theorem State.evaluationTick_cs (s : State) : (s.evaluationTick).cs = s.cs := rfl
@[simp] theorem State.evaluationTick_evaluate (s : State) : (s.evaluationTick).evaluate = true := rfl
@[simp] theorem State.evaluationTick_order (s : State) : (s.evaluationTick).order = s.order := rfl
@[simp] theorem State.evaluationTick_cuts (s : State) : (s.evaluationTick).cuts = s.cuts := rfl
@[simp] theorem State.evaluationTick_pending (s : State) : (s.evaluationTick).pending = s.pending := rfl

/-! ### State.budgetEvaluation -/

@[simp] theorem State.budgetEvaluation_now (stamp : Nat) (s : State) : (s.budgetEvaluation stamp).now = s.now := rfl
@[simp] theorem State.budgetEvaluation_powered (stamp : Nat) (s : State) :
    (s.budgetEvaluation stamp).powered = s.powered := rfl
@[simp] theorem State.budgetEvaluation_cfg (stamp : Nat) (s : State) : (s.budgetEvaluation stamp).cfg = s.cfg := rfl
@[simp] theorem State.budgetEvaluation_dt (stamp : Nat) (s : State) : (s.budgetEvaluation stamp).dt = s.dt := rfl
@[simp] theorem State.budgetEvaluation_cc (stamp : Nat) (s : State) :
    (s.budgetEvaluation stamp).cc = Vector.ofFn (fun c : Fin 16 => s.evaluated stamp s.pass c) := rfl
@[simp] theorem State.budgetEvaluation_ibu (stamp : Nat) (s : State) : (s.budgetEvaluation stamp).ibu = s.ibu := rfl
@[simp] theorem State.budgetEvaluation_fu (stamp : Nat) (s : State) : (s.budgetEvaluation stamp).fu = s.fu := rfl
@[simp] theorem State.budgetEvaluation_ge (stamp : Nat) (s : State) : (s.budgetEvaluation stamp).ge = s.ge := rfl
@[simp] theorem State.budgetEvaluation_cs (stamp : Nat) (s : State) : (s.budgetEvaluation stamp).cs = s.cs := rfl
@[simp] theorem State.budgetEvaluation_evaluate (stamp : Nat) (s : State) :
    (s.budgetEvaluation stamp).evaluate = s.evaluate := rfl
@[simp] theorem State.budgetEvaluation_order (stamp : Nat) (s : State) :
    (s.budgetEvaluation stamp).order = s.order := rfl
@[simp] theorem State.budgetEvaluation_cuts (stamp : Nat) (s : State) :
    (s.budgetEvaluation stamp).cuts = s.cuts := rfl
@[simp] theorem State.budgetEvaluation_pending (stamp : Nat) (s : State) :
    (s.budgetEvaluation stamp).pending = s.pending := rfl

/-! ### State.takeSupply -/

@[simp] theorem State.takeSupply_now (mv : Nat) (s : State) : (s.takeSupply mv).now = s.now := rfl
@[simp] theorem State.takeSupply_powered (mv : Nat) (s : State) : (s.takeSupply mv).powered = s.powered := rfl
@[simp] theorem State.takeSupply_cfg (mv : Nat) (s : State) : (s.takeSupply mv).cfg = s.cfg := rfl
@[simp] theorem State.takeSupply_dt (mv : Nat) (s : State) : (s.takeSupply mv).dt = s.dt := rfl
@[simp] theorem State.takeSupply_cc (mv : Nat) (s : State) : (s.takeSupply mv).cc = s.cc := rfl
@[simp] theorem State.takeSupply_ibu (mv : Nat) (s : State) : (s.takeSupply mv).ibu = s.ibu := rfl
@[simp] theorem State.takeSupply_fu (mv : Nat) (s : State) : (s.takeSupply mv).fu = s.fu := rfl
@[simp] theorem State.takeSupply_ge (mv : Nat) (s : State) : (s.takeSupply mv).ge = s.ge := rfl
@[simp] theorem State.takeSupply_cs (mv : Nat) (s : State) : (s.takeSupply mv).cs = s.cs := rfl
@[simp] theorem State.takeSupply_order (mv : Nat) (s : State) : (s.takeSupply mv).order = s.order := rfl
@[simp] theorem State.takeSupply_cuts (mv : Nat) (s : State) : (s.takeSupply mv).cuts = s.cuts := rfl
@[simp] theorem State.takeSupply_pending (mv : Nat) (s : State) : (s.takeSupply mv).pending = s.pending := rfl

/-! ### State.enterAsleep -/

@[simp] theorem State.enterAsleep_now (s : State) : (s.enterAsleep).now = s.now := rfl
@[simp] theorem State.enterAsleep_powered (s : State) : (s.enterAsleep).powered = s.powered := rfl
@[simp] theorem State.enterAsleep_cfg (s : State) : (s.enterAsleep).cfg = s.cfg := rfl
@[simp] theorem State.enterAsleep_dt (s : State) : (s.enterAsleep).dt = s.dt := rfl
@[simp] theorem State.enterAsleep_cc (s : State) : (s.enterAsleep).cc = s.cc := rfl
@[simp] theorem State.enterAsleep_fu (s : State) : (s.enterAsleep).fu = s.fu := rfl
@[simp] theorem State.enterAsleep_lp (s : State) : (s.enterAsleep).lp = s.lp := rfl
@[simp] theorem State.enterAsleep_cs (s : State) : (s.enterAsleep).cs = s.cs := rfl
@[simp] theorem State.enterAsleep_evaluate (s : State) : (s.enterAsleep).evaluate = s.evaluate := rfl
@[simp] theorem State.enterAsleep_order (s : State) : (s.enterAsleep).order = s.order := rfl
@[simp] theorem State.enterAsleep_cuts (s : State) : (s.enterAsleep).cuts = s.cuts := rfl
@[simp] theorem State.enterAsleep_pending (s : State) : (s.enterAsleep).pending = s.pending := rfl

/-! ### State.blocksReset -/

@[simp] theorem State.blocksReset_now (s : State) : (s.blocksReset).now = s.now := rfl
@[simp] theorem State.blocksReset_powered (s : State) : (s.blocksReset).powered = s.powered := rfl
@[simp] theorem State.blocksReset_cfg (s : State) : (s.blocksReset).cfg = s.cfg := rfl
@[simp] theorem State.blocksReset_dt (s : State) : (s.blocksReset).dt = DemandTable.reset := rfl
@[simp] theorem State.blocksReset_cc (s : State) : (s.blocksReset).cc = Vector.replicate 16 Circuit.reset := rfl
@[simp] theorem State.blocksReset_ibu (s : State) : (s.blocksReset).ibu = s.ibu := rfl
@[simp] theorem State.blocksReset_fu (s : State) : (s.blocksReset).fu = Flasher.reset s.fu.wireLow := rfl
@[simp] theorem State.blocksReset_sbu (s : State) : (s.blocksReset).sbu = Supply.reset s.now := rfl
@[simp] theorem State.blocksReset_lp (s : State) : (s.blocksReset).lp = s.lp := rfl
@[simp] theorem State.blocksReset_cs (s : State) : (s.blocksReset).cs = s.cs := rfl
@[simp] theorem State.blocksReset_evaluate (s : State) : (s.blocksReset).evaluate = false := rfl
@[simp] theorem State.blocksReset_order (s : State) : (s.blocksReset).order = s.order := rfl
@[simp] theorem State.blocksReset_cuts (s : State) : (s.blocksReset).cuts = s.cuts := rfl
@[simp] theorem State.blocksReset_pending (s : State) : (s.blocksReset).pending = s.pending := rfl

/-! ### State.softReset -/

@[simp] theorem State.softReset_now (s : State) : (s.softReset).now = s.now := rfl
@[simp] theorem State.softReset_powered (s : State) : (s.softReset).powered = s.powered := rfl
@[simp] theorem State.softReset_cfg (s : State) : (s.softReset).cfg = s.cfg := rfl
@[simp] theorem State.softReset_dt (s : State) : (s.softReset).dt = DemandTable.reset := rfl
@[simp] theorem State.softReset_cc (s : State) : (s.softReset).cc = Vector.replicate 16 Circuit.reset := rfl
@[simp] theorem State.softReset_ibu (s : State) : (s.softReset).ibu = s.ibu.softReset s.now := rfl
@[simp] theorem State.softReset_fu (s : State) : (s.softReset).fu = Flasher.reset s.fu.wireLow := rfl
@[simp] theorem State.softReset_sbu (s : State) : (s.softReset).sbu = Supply.reset s.now := rfl
@[simp] theorem State.softReset_lp (s : State) : (s.softReset).lp = s.lp.softReset := rfl
@[simp] theorem State.softReset_cs (s : State) :
    (s.softReset).cs = { s.cs with state := .idle, buffer := none } := rfl
@[simp] theorem State.softReset_evaluate (s : State) : (s.softReset).evaluate = false := rfl
@[simp] theorem State.softReset_order (s : State) : (s.softReset).order = s.order := rfl
@[simp] theorem State.softReset_cuts (s : State) : (s.softReset).cuts = s.cuts := rfl
@[simp] theorem State.softReset_pending (s : State) : (s.softReset).pending = s.pending := rfl

end Sys2Proof.Machine
end

