-- ==== Sys2Proof/Laws/Work.lean ====
section
/-! SUPPORT. What the blocks of the part can do inside one command, said once: a block's working is a chain of the moves
listed in `Move`, and each shared operation is such a chain. A law of every move is then a law of every operation. -/

namespace Sys2Proof.Machine

open Sys2Proof

/-- The configuration passes every cross-table check, with what the laws of its own entries give (R25, R97). -/
def State.ConfigSound (s : State) : Prop := (∃ occupied, s.cfg.lawful occupied = true) ∧ s.Aligned

/-- One move of a block. Each names what it changes; the hypotheses say what the operations have checked first, in
states where the laws named before the arrow hold. -/
inductive Move : State → State → Prop
  | flasher (s : State) (fu : Flasher) : fu.wireLow = s.fu.wireLow → Move s { s with fu := fu }
  | inputs (s : State) (u : Inputs) : Move s { s with ibu := u }
  | supply (s : State) (u : Supply) : u.last = s.sbu.last → Move s { s with sbu := u }
  | samples (s : State) : Move s { s with cc := openSamples s.cc }
  | raise (s : State) (c : Status) (b : Bool) : Move s (s.raiseIf c b)
  | event (s : State) (b : Bool) : Move s { s with evaluate := b }
  | order (s : State) (o : List Nat) : Move s { s with order := o }
  | channels (s : State) (v : Vector Channel 3) :
      (∀ g : ChannelId, (v[g]).state = .disabled ↔ (s.ge[g]).state = .disabled) →
      (s.GaugesLawful → ∀ g : ChannelId, Channel.Lawful v[g]) → Move s { s with ge := v }
  | duty (s : State) (c : CircuitId) (d : Nat) : Move s (s.writeDuty c d)
  | resolve (s : State) (listed phase : Bool) (c : CircuitId) : Move s (s.resolve listed phase c)
  | place (s : State) (p : Placement) : p.source ≠ .host →
      (s.ConfigSound → (s.cfg.circuits[p.circuit]).kind.takesDemands = true) → Move s (s.placeInternal p)
  | placeHost (s : State) (slot : SlotId) (p : Placement) :
      (s.dt.slots[slot]).demand = none → p.source = .host → s.dt.hostCount < 20 →
      (s.cfg.circuits[p.circuit]).kind.takesDemands = true → Move s (s.createAt slot p)
  | retire (s : State) (slot : SlotId) : Move s (s.retireSlot slot)
  | retireMany (s : State) (which : Demand → Bool) : Move s (s.retireWhere which)
  | amend (s : State) (slot : SlotId) (old new : Demand) (moves : Bool) :
      (s.dt.slots[slot]).demand = some old → new.circuit = old.circuit → new.source = old.source →
      (moves = false → new.priority = old.priority) →
      Move s (({ s with dt := s.dt.rewrite slot new moves } : State).resolve true false old.circuit)

/-- A chain of moves. -/
inductive Work : State → State → Prop
  | refl (s : State) : Work s s
  | step {s t u : State} : Work s t → Move t u → Work s u

theorem Move.work {s t : State} (h : Move s t) : Work s t := .step (.refl s) h

theorem Work.trans {s t u : State} (h : Work s t) (k : Work t u) : Work s u := by
  induction k with
  | refl => exact h
  | step _ m ih => exact .step ih m

/-- A chain over a list. -/
theorem Work.foldl {α : Type} (f : State → α → State) (h : ∀ s a, Work s (f s a)) (l : List α) (s : State) :
    Work s (l.foldl f s) := by
  induction l generalizing s with
  | nil => exact .refl s
  | cons a l ih => exact (h s a).trans (ih (f s a))

/-! ### What no move touches -/

theorem LinkPort.raiseIf_response (lp : LinkPort) (c : Status) (b : Bool) : (lp.raiseIf c b).response = lp.response := by
  unfold LinkPort.raiseIf; split <;> rfl

theorem LinkPort.raiseIf_last (lp : LinkPort) (c : Status) (b : Bool) : (lp.raiseIf c b).last = lp.last := by
  unfold LinkPort.raiseIf; split <;> rfl

theorem LinkPort.raiseIf_window (lp : LinkPort) (c : Status) (b : Bool) : (lp.raiseIf c b).window = lp.window := by
  unfold LinkPort.raiseIf; split <;> rfl

theorem LinkPort.raiseIf_straps (lp : LinkPort) (c : Status) (b : Bool) : (lp.raiseIf c b).straps = lp.straps := by
  unfold LinkPort.raiseIf; split <;> rfl


/-- Raising a condition leaves the standing part. -/
theorem State.standing_raiseIf (s : State) (c : Status) (b : Bool) : (s.raiseIf c b).standing = s.standing := by
  simp [State.standing, LinkPort.raiseIf_response, LinkPort.raiseIf_last, LinkPort.raiseIf_window,
    LinkPort.raiseIf_straps]

/-- What the Demand Table's own operations leave alone, beside the standing part: the inputs, the flasher, the gauges, the
supply and `order`. -/
def State.aside (s : State) : Standing × Inputs × Flasher × Vector Channel 3 × Supply × List Nat :=
  (s.standing, s.ibu, s.fu, s.ge, s.sbu, s.order)

theorem State.aside_foldl {α : Type} (f : State → α → State) (h : ∀ s a, (f s a).aside = s.aside)
    (l : List α) (s : State) : (l.foldl f s).aside = s.aside := by
  induction l generalizing s with
  | nil => rfl
  | cons a l ih => exact (ih (f s a)).trans (h s a)

theorem State.aside_resolve (s : State) (listed phase : Bool) (c : CircuitId) :
    (s.resolve listed phase c).aside = s.aside := by
  unfold State.resolve
  split
  · simp [State.aside, State.standing, LinkPort.raiseIf_response, LinkPort.raiseIf_last, LinkPort.raiseIf_window,
      LinkPort.raiseIf_straps]
  · rfl

theorem State.aside_resolveAll (s : State) (listed phase : Bool) (which : CircuitId → Bool) :
    (s.resolveAll listed phase which).aside = s.aside :=
  State.aside_foldl _ (fun s c => s.aside_resolve listed phase c) _ s

theorem State.aside_writeDuty (s : State) (c : CircuitId) (d : Nat) : (s.writeDuty c d).aside = s.aside := by
  unfold State.writeDuty
  dsimp only
  split
  · rfl
  · simp [State.aside, State.standing, LinkPort.raiseIf_response, LinkPort.raiseIf_last, LinkPort.raiseIf_window,
      LinkPort.raiseIf_straps]

theorem State.aside_createAt (s : State) (slot : SlotId) (p : Placement) : (s.createAt slot p).aside = s.aside :=
  State.aside_resolve _ _ _ _

theorem State.aside_retireSlot (s : State) (slot : SlotId) : (s.retireSlot slot).aside = s.aside := by
  unfold State.retireSlot
  split
  · rfl
  · exact State.aside_resolve _ _ _ _

theorem State.aside_retireWhere (s : State) (which : Demand → Bool) : (s.retireWhere which).aside = s.aside :=
  State.aside_resolveAll _ _ _ _

theorem State.aside_create (s : State) (p : Placement) : (s.create p).aside = s.aside := by
  unfold State.create
  split
  · rfl
  · exact s.aside_createAt _ _

theorem State.aside_replaceAt (s : State) (slot : SlotId) (d : Demand) (p : Placement) :
    (s.replaceAt slot d p).aside = s.aside := State.aside_resolve _ _ _ _

theorem State.aside_placeInternal (s : State) (p : Placement) : (s.placeInternal p).aside = s.aside := by
  unfold State.placeInternal
  split
  · exact s.aside_create p
  · split
    · exact s.aside_replaceAt _ _ p
    · exact (State.aside_create _ p).trans (s.aside_retireSlot _)

theorem State.aside_retireKey (s : State) (source : Source) (c : CircuitId) :
    (s.retireKey source c).aside = s.aside := by
  unfold State.retireKey
  split
  · rfl
  · exact s.aside_retireSlot _

theorem State.aside_amendAt (s : State) (slot : SlotId) (d : Demand) (moves : Bool) :
    (s.amendAt slot d moves).aside = s.aside := State.aside_resolve _ _ _ _

/-- Two states that agree aside agree in what stands, in the inputs, the flasher, the gauges and the supply. -/
theorem State.standing_of_aside {s t : State} (h : t.aside = s.aside) : t.standing = s.standing :=
  congrArg Prod.fst h
theorem State.ibu_of_aside {s t : State} (h : t.aside = s.aside) : t.ibu = s.ibu :=
  congrArg (fun q => q.2.1) h
theorem State.fu_of_aside {s t : State} (h : t.aside = s.aside) : t.fu = s.fu :=
  congrArg (fun q => q.2.2.1) h
theorem State.ge_of_aside {s t : State} (h : t.aside = s.aside) : t.ge = s.ge :=
  congrArg (fun q => q.2.2.2.1) h
theorem State.sbu_of_aside {s t : State} (h : t.aside = s.aside) : t.sbu = s.sbu :=
  congrArg (fun q => q.2.2.2.2.1) h
theorem State.order_of_aside {s t : State} (h : t.aside = s.aside) : t.order = s.order :=
  congrArg (fun q => q.2.2.2.2.2) h

/-- A move either leaves the gauges, or changes no channel into or out of DISABLED. -/
theorem Move.ge_or {s t : State} (h : Move s t) :
    t.ge = s.ge ∨ ∀ g : ChannelId, (t.ge[g]).state = .disabled ↔ (s.ge[g]).state = .disabled := by
  cases h with
  | flasher => exact .inl rfl
  | inputs => exact .inl rfl
  | supply => exact .inl rfl
  | samples => exact .inl rfl
  | raise => exact .inl rfl
  | event => exact .inl rfl
  | order => exact .inl rfl
  | channels v hv _ => exact .inr hv
  | duty => exact .inl (State.ge_of_aside (s.aside_writeDuty _ _))
  | resolve => exact .inl (State.ge_of_aside (s.aside_resolve _ _ _))
  | place p => exact .inl (State.ge_of_aside (s.aside_placeInternal p))
  | placeHost => exact .inl (State.ge_of_aside (s.aside_createAt _ _))
  | retire slot => exact .inl (State.ge_of_aside (s.aside_retireSlot slot))
  | retireMany => exact .inl (State.ge_of_aside (s.aside_retireWhere _))
  | amend slot old new moves =>
    exact .inl (State.ge_of_aside (State.aside_resolve ({ s with dt := s.dt.rewrite slot new moves } : State) _ _ _))

/-- No move changes a channel into or out of DISABLED: enabling and disabling are an applied write's (R89). -/
theorem Move.disabled {s t : State} (h : Move s t) (g : ChannelId) :
    (t.ge[g]).state = .disabled ↔ (s.ge[g]).state = .disabled := by
  rcases h.ge_or with h | h
  · rw [h]
  · exact h g

/-- No move touches the standing part. -/
theorem Move.standing {s t : State} (h : Move s t) : t.standing = s.standing := by
  cases h with
  | flasher fu hw => simp [State.standing, hw]
  | inputs => rfl
  | supply => rfl
  | samples => rfl
  | raise => exact s.standing_raiseIf _ _
  | event => rfl
  | order => rfl
  | channels => rfl
  | duty => exact State.standing_of_aside (s.aside_writeDuty _ _)
  | resolve => exact State.standing_of_aside (s.aside_resolve _ _ _)
  | place p => exact State.standing_of_aside (s.aside_placeInternal p)
  | placeHost => exact State.standing_of_aside (s.aside_createAt _ _)
  | retire slot => exact State.standing_of_aside (s.aside_retireSlot slot)
  | retireMany => exact State.standing_of_aside (s.aside_retireWhere _)
  | amend slot old new moves =>
    exact State.standing_of_aside (State.aside_resolve ({ s with dt := s.dt.rewrite slot new moves } : State) _ _ _)

/-- The soundness of the configuration stands through every move, in both directions. -/
theorem Move.configSound {s t : State} (h : Move s t) : t.ConfigSound ↔ s.ConfigSound := by
  have hc : t.cfg = s.cfg := congrArg Standing.cfg h.standing
  unfold State.ConfigSound State.Aligned
  rw [hc]
  simp only [ne_eq, h.disabled]

theorem Work.configSound {s t : State} (h : Work s t) : t.ConfigSound ↔ s.ConfigSound := by
  induction h with
  | refl => exact Iff.rfl
  | step _ m ih => exact m.configSound.trans ih

/-- No working of a block touches the standing part: the clock, the configuration, the store, the queue, the prepared
response, the last result, the window and the straps. -/
theorem Work.standing {s t : State} (h : Work s t) : t.standing = s.standing := by
  induction h with
  | refl => rfl
  | step _ m ih => exact m.standing.trans ih

/-- No working of a block enables or disables a channel. -/
theorem Work.disabled {s t : State} (h : Work s t) (g : ChannelId) :
    (t.ge[g]).state = .disabled ↔ (s.ge[g]).state = .disabled := by
  induction h with
  | refl => exact Iff.rfl
  | step _ m ih => exact (m.disabled g).trans ih

theorem Work.now {s t : State} (h : Work s t) : t.now = s.now := congrArg Standing.now h.standing
theorem Work.powered {s t : State} (h : Work s t) : t.powered = s.powered := congrArg Standing.powered h.standing
theorem Work.cfg {s t : State} (h : Work s t) : t.cfg = s.cfg := congrArg Standing.cfg h.standing
theorem Work.cs {s t : State} (h : Work s t) : t.cs = s.cs := congrArg Standing.cs h.standing
theorem Work.cuts {s t : State} (h : Work s t) : t.cuts = s.cuts := congrArg Standing.cuts h.standing
theorem Work.pending {s t : State} (h : Work s t) : t.pending = s.pending := congrArg Standing.pending h.standing
theorem Work.wireLow {s t : State} (h : Work s t) : t.fu.wireLow = s.fu.wireLow :=
  congrArg Standing.wireLow h.standing
theorem Work.response {s t : State} (h : Work s t) : t.lp.response = s.lp.response :=
  congrArg Standing.response h.standing
theorem Work.last {s t : State} (h : Work s t) : t.lp.last = s.lp.last := congrArg Standing.last h.standing
theorem Work.window {s t : State} (h : Work s t) : t.lp.window = s.lp.window := congrArg Standing.window h.standing
theorem Work.straps {s t : State} (h : Work s t) : t.lp.straps = s.lp.straps := congrArg Standing.straps h.standing

/-! ### The demand table -/

theorem State.resolveAll_work (s : State) (listed phase : Bool) (which : CircuitId → Bool) :
    Work s (s.resolveAll listed phase which) :=
  Work.foldl _ (fun s c => (Move.resolve s listed phase c).work) _ s

theorem State.retireSlot_work (s : State) (slot : SlotId) : Work s (s.retireSlot slot) := (Move.retire s slot).work

theorem State.retireWhere_work (s : State) (which : Demand → Bool) : Work s (s.retireWhere which) :=
  (Move.retireMany s which).work

theorem State.retireKey_work (s : State) (source : Source) (c : CircuitId) : Work s (s.retireKey source c) := by
  unfold State.retireKey
  split
  · exact .refl s
  · exact s.retireSlot_work _

end Sys2Proof.Machine
end

