-- ==== Sys2Proof/Laws/Works.lean ====
section
/-! SUPPORT. Every shared operation is a chain of moves (Laws/Work.lean): the flasher, the supply, the gauges, the bindings
and the ignition. -/

namespace Sys2Proof.Machine

open Sys2Proof

/-! ### Chains -/

/-- A chain over a list whose members matter. -/
theorem Work.foldl_mem {α : Type} (f : State → α → State) (l : List α) (s : State)
    (h : ∀ t, Work s t → ∀ a ∈ l, Work t (f t a)) : Work s (l.foldl f s) := by
  suffices H : ∀ (l' : List α) (t : State), Work s t → (∀ a ∈ l', a ∈ l) → Work s (l'.foldl f t) from
    H l s (.refl s) (fun _ ha => ha)
  intro l'
  induction l' with
  | nil => intro t ht _; exact ht
  | cons a l' ih =>
    intro t ht hm
    exact ih (f t a) (ht.trans (h t ht a (hm a (by simp)))) (fun b hb => hm b (by simp [hb]))

theorem State.raiseIf_work (s : State) (c : Status) (b : Bool) : Work s (s.raiseIf c b) := (Move.raise s c b).work
theorem State.raise_work (s : State) (c : Status) : Work s (s.raise c) := (Move.raise s c true).work
theorem State.order_work (s : State) (o : List Nat) : Work s { s with order := o } := (Move.order s o).work
theorem State.inputs_work (s : State) (u : Inputs) : Work s { s with ibu := u } := (Move.inputs s u).work
theorem State.event_work (s : State) (b : Bool) : Work s { s with evaluate := b } := (Move.event s b).work
theorem State.supply_work (s : State) (u : Supply) (h : u.last = s.sbu.last) : Work s { s with sbu := u } :=
  (Move.supply s u h).work
theorem State.flasher_work (s : State) (fu : Flasher) (h : fu.wireLow = s.fu.wireLow) : Work s { s with fu := fu } :=
  (Move.flasher s fu h).work

theorem State.blocks_work (s : State) (u : Inputs) (v : Supply) (b : Bool) (h : v.last = s.sbu.last) :
    Work s { s with ibu := u, sbu := v, evaluate := b } :=
  ((s.inputs_work u).trans (State.supply_work _ v h)).trans (State.event_work _ b)

theorem State.choose_work (s : State) (n : Nat) : Work s (s.choose n).2 := by
  unfold State.choose
  split
  · exact .refl s
  · exact s.order_work _

theorem State.restartSleep_work (s : State) : Work s s.restartSleep := s.supply_work _ rfl

/-! ### Lists of all -/

theorem mem_allCircuits (c : CircuitId) : c ∈ allCircuits := by revert c; decide
theorem mem_allBindings (n : BindingId) : n ∈ allBindings := by revert n; decide
theorem mem_allChannels (g : ChannelId) : g ∈ allChannels := by revert g; decide
theorem mem_allSides (side : Side) : side ∈ allSides := by cases side <;> decide
theorem mem_allSlots (slot : SlotId) : slot ∈ allSlots := List.mem_finRange slot

/-! ### What a sound configuration gives to a placement -/

theorem Kind.takesDemands_of_isLamp {k : Kind} (h : k.isLamp = true) : k.takesDemands = true := by
  cases k <;> simp_all [Kind.isLamp, Kind.takesDemands]

theorem CircuitCfg.takesDemands_of_essentialLamp {k : CircuitCfg} (h : k.essentialLamp = true) :
    k.kind.takesDemands = true := by
  unfold CircuitCfg.essentialLamp at h
  exact Kind.takesDemands_of_isLamp (Bool.and_eq_true_iff.1 h).1

theorem State.ConfigSound.member {s : State} (h : s.ConfigSound) (side : Side) {c : CircuitId}
    (hc : c ∈ (s.cfg.lane side).members) : (s.cfg.circuits[c]).essentialLamp = true := by
  obtain ⟨⟨occ, hl⟩, _⟩ := h
  have hm : s.cfg.membersStand = true := by simp_all [LiveConfig.lawful]
  exact List.all_eq_true.1 (List.all_eq_true.1 hm side (mem_allSides side)) c hc

theorem State.ConfigSound.target {s : State} (h : s.ConfigSound) (n : BindingId)
    (he : (s.cfg.bindings[n]).enable = true) {c : CircuitId}
    (hc : (s.cfg.bindings[n]).action.circuit? = some c) : (s.cfg.circuits[c]).kind.takesDemands = true := by
  obtain ⟨⟨occ, hl⟩, _⟩ := h
  have hm : s.cfg.targetsStand = true := by simp_all [LiveConfig.lawful]
  have := List.all_eq_true.1 hm n (mem_allBindings n)
  rw [he, hc] at this
  simpa using this

theorem State.ConfigSound.warning {s : State} (h : s.ConfigSound) (g : ChannelId)
    (he : (s.ge[g]).state ≠ .disabled) (hw : (s.cfg.gauges[g]).warnEnable = true) :
    (s.cfg.circuits[(s.cfg.gauges[g]).warnCircuit]).essentialLamp = true := by
  obtain ⟨⟨occ, hl⟩, ha⟩ := h
  have hm : s.cfg.warningsStand = true := by simp_all [LiveConfig.lawful]
  have hg : g ∈ s.cfg.enabledChannels :=
    List.mem_filter.2 ⟨mem_allChannels g, (ha.2 g).2 he⟩
  have := List.all_eq_true.1 hm g hg
  rw [hw] at this
  simpa using this

theorem State.ConfigSound.lamp {s : State} (h : s.ConfigSound) {c : CircuitId}
    (hc : s.cfg.budget.lamp = some c) : (s.cfg.circuits[c]).essentialLamp = true := by
  obtain ⟨⟨occ, hl⟩, _⟩ := h
  have hm : s.cfg.lampStands = true := by simp_all [LiveConfig.lawful]
  unfold LiveConfig.lampStands at hm
  simpa [hc] using hm

theorem State.placeInternal_work (s : State) (p : Placement) (hs : p.source ≠ .host)
    (hk : s.ConfigSound → (s.cfg.circuits[p.circuit]).kind.takesDemands = true) : Work s (s.placeInternal p) :=
  (Move.place s p hs hk).work

theorem State.createAt_work (s : State) (slot : SlotId) (p : Placement) (hf : (s.dt.slots[slot]).demand = none)
    (hs : p.source = .host) (hq : s.dt.hostCount < 20)
    (hk : (s.cfg.circuits[p.circuit]).kind.takesDemands = true) : Work s (s.createAt slot p) :=
  (Move.placeHost s slot p hf hs hq hk).work

theorem State.amendAt_work (s : State) (slot : SlotId) (old new : Demand) (moves : Bool)
    (hd : (s.dt.slots[slot]).demand = some old) (hc : new.circuit = old.circuit) (hs : new.source = old.source)
    (hp : moves = false → new.priority = old.priority) : Work s (s.amendAt slot new moves) := by
  unfold State.amendAt
  rw [hc]
  exact (Move.amend s slot old new moves hd hc hs hp).work

/-! ### The flasher -/

theorem State.announcePhase_work (s : State) (left : Bool) : Work s (s.announcePhase left) :=
  s.resolveAll_work _ _ _

theorem Flasher.tickOn_wireLow (fu : Flasher) (mode : TickMode) (now : Nat) :
    (fu.tickOn mode now).wireLow = fu.wireLow := by cases mode <;> rfl

theorem Flasher.tickOut_wireLow (fu : Flasher) (mode : TickMode) : (fu.tickOut mode).wireLow = fu.wireLow := by
  cases mode <;> rfl

theorem Flasher.tickMode_wireLow (fu : Flasher) (mode : TickMode) : (fu.tickMode mode).wireLow = fu.wireLow := by
  cases mode <;> rfl

theorem State.enterOn_work (s : State) : Work s s.enterOn := by
  unfold State.enterOn
  refine Work.trans ?_ (State.announcePhase_work _ _)
  refine (Move.samples s).work.trans ?_
  exact State.flasher_work _ _ (by rw [Flasher.tickOn_wireLow])

theorem State.enterOff_work (s : State) : Work s s.enterOff := by
  unfold State.enterOff
  exact (State.flasher_work _ _ (by rw [Flasher.tickOut_wireLow])).trans (State.announcePhase_work _ _)

theorem State.enterWait_work (s : State) : Work s s.enterWait := by
  unfold State.enterWait
  exact State.flasher_work _ _ (by rw [Flasher.tickOut_wireLow])

theorem State.startClock_work (s : State) : Work s s.startClock := by
  unfold State.startClock
  dsimp only
  split
  · split
    · exact (s.flasher_work { s.fu with synced := s.cfg.flash.sync, lineRead := !s.fu.wireLow } rfl).trans
        (State.enterWait_work _)
    · exact (s.flasher_work { s.fu with synced := s.cfg.flash.sync, lineRead := !s.fu.wireLow } rfl).trans
        (State.enterOn_work _)
  · exact (s.flasher_work { s.fu with synced := s.cfg.flash.sync } rfl).trans (State.enterOn_work _)

theorem State.stopClock_work (s : State) : Work s s.stopClock := by
  unfold State.stopClock
  dsimp only
  split
  · exact (State.flasher_work _ _ (by rw [Flasher.tickOut_wireLow])).trans (State.announcePhase_work _ _)
  · exact State.flasher_work _ _ (by rw [Flasher.tickOut_wireLow])

theorem State.placeLane_work (s : State) (side : Side) : Work s (s.placeLane side) := by
  refine Work.foldl_mem _ _ s (fun t ht c hc => State.placeInternal_work t _ (by simp [lanePlacement]) (fun h => ?_))
  have hc' : c ∈ (t.cfg.lane side).members := by rw [ht.cfg]; exact hc
  exact CircuitCfg.takesDemands_of_essentialLamp (h.member side hc')

theorem State.retireLane_work (s : State) (side : Side) (members : List CircuitId) :
    Work s (s.retireLane side members) :=
  Work.foldl _ (fun t c => t.retireKey_work _ c) _ s

theorem State.moveLanes_work (s : State) (lost gained : List Side) : Work s (s.moveLanes lost gained) := by
  unfold State.moveLanes
  exact (Work.foldl (fun t side => t.retireLane side (t.cfg.lane side).members)
    (fun t side => t.retireLane_work side _) lost s).trans (Work.foldl _ (fun t side => t.placeLane_work side) gained _)

theorem State.changeRequests_work (s : State) (f : Flasher → Flasher) (h : (f s.fu).wireLow = s.fu.wireLow) :
    Work s (s.changeRequests f) := by
  have h0 : Work s { s with fu := f s.fu } := s.flasher_work _ h
  unfold State.changeRequests
  dsimp only
  split
  · exact h0.trans (State.moveLanes_work _ _ _)
  · rename_i g hg
    have hw : ∀ t : State, Work t (g t) := by
      intro t
      split at hg
      · split at hg
        · obtain rfl : State.startClock = g := by simpa using hg
          exact t.startClock_work
        · simp at hg
      · split at hg
        · simp at hg
        · obtain rfl : State.stopClock = g := by simpa using hg
          exact t.stopClock_work
    split
    · exact (h0.trans (State.choose_work _ _)).trans ((State.moveLanes_work _ _ _).trans (hw _))
    · exact (h0.trans (State.choose_work _ _)).trans ((hw _).trans (State.moveLanes_work _ _ _))

theorem State.placeHostRequest_work (s : State) (r : HostRequest) : Work s (s.placeHostRequest r) :=
  s.changeRequests_work _ rfl

theorem State.retireHostRequest_work (s : State) : Work s s.retireHostRequest := by
  unfold State.retireHostRequest
  split
  · exact .refl s
  · exact s.changeRequests_work _ rfl

theorem State.placeRequest_work (s : State) (n : BindingId) (lanes : LaneSet) : Work s (s.placeRequest n lanes) :=
  s.changeRequests_work _ rfl

theorem State.retireRequest_work (s : State) (n : BindingId) : Work s (s.retireRequest n) := by
  unfold State.retireRequest
  split
  · exact .refl s
  · exact s.changeRequests_work _ rfl

theorem State.lowerCount_work (s : State) : Work s s.lowerCount := by
  unfold State.lowerCount
  split
  · exact .refl s
  · split
    · exact .refl s
    · split
      · exact s.retireHostRequest_work
      · exact s.flasher_work _ rfl

theorem State.endOn_work (s : State) : Work s s.endOn := s.enterOff_work.trans (State.lowerCount_work _)

theorem State.endOff_work (s : State) : Work s s.endOff := by
  unfold State.endOff
  dsimp only
  split
  · split
    · exact (s.flasher_work { s.fu with lineRead := !s.fu.wireLow } rfl).trans (State.enterWait_work _)
    · exact (s.flasher_work { s.fu with lineRead := !s.fu.wireLow } rfl).trans (State.enterOn_work _)
  · exact s.enterOn_work

theorem State.abandonSync_work (s : State) : Work s s.abandonSync := by
  unfold State.abandonSync
  dsimp only
  refine ((s.raise_work .syncFault).trans (State.flasher_work _ _ ?_)).trans (State.enterOn_work _)
  rfl

theorem State.endPulse_work (s : State) : Work s s.endPulse := s.flasher_work _ rfl

/-! ### The supply and the notices -/

theorem State.chargeLamp_work (s : State) : Work s s.chargeLamp := by
  unfold State.chargeLamp
  split
  · rename_i c hc
    split
    · exact .refl s
    · refine (s.supply_work { s.sbu with lamp := true } rfl).trans
        (State.placeInternal_work _ _ (by simp [chargePlacement]) (fun h => ?_))
      refine CircuitCfg.takesDemands_of_essentialLamp (h.lamp ?_)
      unfold State.lampWanted at hc
      split at hc
      · exact hc
      · simp at hc
  · split
    · exact (s.supply_work { s.sbu with lamp := false } rfl).trans (State.retireKey_work _ _ _)
    · exact .refl s

theorem State.takeSupply_work (s : State) (mv : Nat) : Work s (s.takeSupply mv) := by
  unfold State.takeSupply
  refine (s.supply_work { s.sbu.sampleSupply s.cfg.budget s.now mv with
    state := (s.sbu.sampleSupply s.cfg.budget s.now mv).stateNext s.now } rfl).trans ?_
  exact (State.raiseIf_work _ .supplyLow _).trans (State.event_work _ _)

theorem State.setPower_work (s : State) (p : Power) : Work s (s.setPower p) := by
  unfold State.setPower
  split
  · exact .refl s
  · exact ((s.supply_work { s.sbu with power := p } rfl).trans (State.event_work _ true)).trans
      (State.chargeLamp_work _)

theorem State.takeCharge_work (s : State) (mv : Nat) : Work s (s.takeCharge mv) := by
  unfold State.takeCharge
  dsimp only
  have h : Work s { s with
      sbu := { s.sbu.sampleCharge s.cfg.budget s.now mv with
        charging := (s.sbu.sampleCharge s.cfg.budget s.now mv).chargingNext s.now }
      lp := s.lp.raiseIf .notCharging (s.sbu.charging &&
        !(s.sbu.sampleCharge s.cfg.budget s.now mv).chargingNext s.now && decide (s.sbu.power = .run))
      evaluate := s.evaluate ||
        decide ((s.sbu.sampleCharge s.cfg.budget s.now mv).chargingNext s.now ≠ s.sbu.charging) } :=
    (s.raiseIf_work .notCharging _).trans (State.blocks_work _ s.ibu _ _ rfl)
  split
  · exact h
  · exact h.trans (State.chargeLamp_work _)

theorem State.sampleBoth_work (s : State) (vsense csense : Nat) : Work s (s.sampleBoth vsense csense) := by
  unfold State.sampleBoth
  exact ((s.supply_work { s.sbu with sampleDue := some (s.now + 20) } rfl).trans (State.takeSupply_work _ _)).trans
    (State.takeCharge_work _ _)

theorem State.evaluationTick_work (s : State) : Work s s.evaluationTick :=
  (s.supply_work { s.sbu with evaluateDue := some (s.now + 1000) } rfl).trans (State.event_work _ true)

/-! ### The gauges -/

/-- A channel's law reads its state, filter, duty and direct reading alone. -/
theorem Channel.Lawful.of_same {a b : Channel} (h : a.Lawful) (h1 : b.state = a.state) (h2 : b.filter = a.filter)
    (h3 : b.duty = a.duty) (h4 : b.directReading = a.directReading) : b.Lawful :=
  ⟨by rw [h2]; exact h.filter_le, by rw [h3]; exact h.duty_le, by rw [h4]; exact h.direct_le,
    by rw [h1, h2, h3]; exact h.resting⟩

theorem State.setChannel_work (s : State) (g : ChannelId) (ch : Channel)
    (hd : ch.state = .disabled ↔ (s.ge[g]).state = .disabled) (hl : s.GaugesLawful → ch.Lawful) :
    Work s (s.setChannel g ch) := by
  refine (Move.channels s (s.ge.set g ch) (fun i => ?_) (fun h i => ?_)).work
  · by_cases hi : g = i
    · subst hi; simpa using hd
    · have : g.val ≠ i.val := fun e => hi (Fin.ext e)
      simp [this]
  · by_cases hi : g = i
    · subst hi; simpa using hl h
    · have : g.val ≠ i.val := fun e => hi (Fin.ext e)
      simpa [Vector.getElem_set, this] using h.2 i

theorem State.driveGauge_work (s : State) (g : ChannelId) (ch : Channel) (d : Nat)
    (hd : ch.state = .disabled ↔ (s.ge[g]).state = .disabled)
    (hl : s.GaugesLawful → Channel.Lawful { ch with duty := d }) : Work s (s.driveGauge g ch d) :=
  (s.setChannel_work g { ch with duty := d } hd hl).trans (Move.duty _ _ _).work

theorem State.warningNotice_work (s : State) (was : DemandTable) (which : Demand → Bool) :
    Work s { s with ge := s.warningNotice was which } := by
  have hg : ∀ g : ChannelId, (s.warningNotice was which)[g] = s.ge[g] ∨
      (s.warningNotice was which)[g] = { s.ge[g] with warning := false } := by
    intro g
    simp only [State.warningNotice, Fin.getElem_fin, Vector.getElem_ofFn]
    split
    · exact .inr rfl
    · exact .inl rfl
  refine (Move.channels s _ (fun g => ?_) (fun h g => ?_)).work
  · rcases hg g with e | e <;> rw [e]
  · rcases hg g with e | e <;> rw [e]
    · exact h.2 g
    · exact (h.2 g).of_same rfl rfl rfl rfl

theorem State.retireAndTell_work (s : State) (which : Demand → Bool) : Work s (s.retireAndTell which) := by
  unfold State.retireAndTell
  refine (s.retireWhere_work which).trans ?_
  refine (State.warningNotice_work _ s.dt which).trans ?_
  exact (State.inputs_work _ _).trans (State.supply_work _ _ rfl)

theorem State.enterAsleep_work (s : State) : Work s s.enterAsleep := by
  unfold State.enterAsleep
  have h1 : Work s { s with ge := Vector.ofFn (fun g : Fin 3 => (s.ge[g]).stopConversions) } := by
    refine (Move.channels s _ (fun g => ?_) (fun h g => ?_)).work
    · simp [Channel.stopConversions]
    · have := (h.2 g).of_same (b := (s.ge[g]).stopConversions) rfl rfl rfl rfl
      simpa using this
  exact (h1.trans (State.inputs_work _ _)).trans (State.supply_work _ _ rfl)

theorem State.wake_work (s : State) : Work s s.wake := by
  unfold State.wake
  split
  · have h1 : Work s { s with ge := Vector.ofFn (fun g : Fin 3 => (s.ge[g]).resumeConversions s.now) } := by
      refine (Move.channels s _ (fun g => ?_) (fun h g => ?_)).work
      · simp [Channel.resumeConversions]
      · have := (h.2 g).of_same (b := (s.ge[g]).resumeConversions s.now) rfl rfl rfl rfl
        simpa using this
    exact h1.trans (State.blocks_work _ _ _ true rfl)
  · exact .refl s

end Sys2Proof.Machine
end

