-- ==== Sys2Proof/Laws/GaugeBounds.lean ====
section
/-! SUPPORT. The bounds of the gauge arithmetic (R98, R111, R113): what keeps a channel lawful from tick to tick. -/

namespace Sys2Proof.Machine

open Sys2Proof

/-! ### Roundings -/

/-- A rounding to nearest stays at or below a whole bound of its quotient. -/
theorem roundHalfUp_le {n d m : Nat} (hd : 0 < d) (h : n ≤ m * d) : roundHalfUp n d ≤ m := by
  unfold roundHalfUp
  refine Nat.le_of_lt_succ ((Nat.div_lt_iff_lt_mul (by omega)).2 ?_)
  have : m.succ * (2 * d) = 2 * (m * d) + 2 * d := by rw [Nat.succ_eq_add_one]; ring
  omega

/-- The duty never exceeds 1000 (R116). -/
theorem dutyOf_le (target supply : Nat) : dutyOf target supply ≤ 1000 := by
  unfold dutyOf
  split
  · omega
  · split
    · omega
    · refine roundHalfUp_le (by omega) ?_
      rw [Nat.mul_comm]
      exact Nat.mul_le_mul_left _ (by omega)

/-! ### The filter (R113) -/

theorem dampingCoefficient_le (damping : Nat) : dampingCoefficient damping ≤ 256 :=
  roundHalfUp_le (by omega) (by nlinarith)

/-- The step has the sign of the difference and is no greater than it (R113). -/
theorem filterStep_between (damping f target : Nat) :
    (0 ≤ (target : Int) * 16 - f → 0 ≤ filterStep damping f target ∧
      filterStep damping f target ≤ (target : Int) * 16 - f) ∧
    ((target : Int) * 16 - f ≤ 0 → filterStep damping f target ≤ 0 ∧
      (target : Int) * 16 - f ≤ filterStep damping f target) := by
  have hk : ((dampingCoefficient damping : Nat) : Int) ≤ 256 := by exact_mod_cast dampingCoefficient_le damping
  have hk0 : (0 : Int) ≤ (dampingCoefficient damping : Nat) := by positivity
  unfold filterStep
  generalize hd : (target : Int) * 16 - f = d
  generalize ((dampingCoefficient damping : Nat) : Int) = k at hk hk0
  dsimp only
  constructor
  · intro h0
    have h1 : 0 ≤ d * k := mul_nonneg h0 hk0
    have h2 : Int.tdiv (d * k) 256 = d * k / 256 := Int.tdiv_eq_ediv_of_nonneg h1
    have h3 : d * k ≤ d * 256 := mul_le_mul_of_nonneg_left hk h0
    rw [h2]
    have h4 : d * k / 256 ≤ d := by omega
    have h5 : 0 ≤ d * k / 256 := by omega
    split
    · split
      · omega
      · split <;> omega
    · omega
  · intro h0
    have h1 : 0 ≤ (-d) * k := mul_nonneg (by omega) hk0
    have h2 : Int.tdiv (d * k) 256 = -((-d) * k / 256) := by
      have : d * k = -((-d) * k) := by ring
      rw [this, Int.neg_tdiv, Int.tdiv_eq_ediv_of_nonneg h1]
    have h3 : (-d) * k ≤ (-d) * 256 := mul_le_mul_of_nonneg_left hk (by omega)
    rw [h2]
    generalize (-d) * k = m at h1 h3
    have h4 : m / 256 ≤ -d := by omega
    have h5 : 0 ≤ m / 256 := by omega
    split
    · split
      · omega
      · split <;> omega
    · omega

/-- The filter stays within 0 to 16000 (R113). -/
theorem filterNext_le {damping f target : Nat} (hf : f ≤ 16000) (ht : target ≤ 1000) :
    filterNext damping f target ≤ 16000 := by
  have h := filterStep_between damping f target
  unfold filterNext
  by_cases hd : 0 ≤ (target : Int) * 16 - f
  · have := h.1 hd; omega
  · have := h.2 (by omega); omega

/-! ### Curves (R111) -/

/-- A value inside a segment lies between the y values of its ends. -/
theorem between_le {p q : Point} {x m : Nat} (h1 : p.x < x) (h2 : x ≤ q.x) (hp : p.y ≤ m) (hq : q.y ≤ m) :
    between p q x ≤ m := by
  unfold between roundHalfAway
  have hD : 0 < q.x - p.x := by omega
  split
  · rename_i hn
    have hle : (((q.y : Int) - p.y) * ((x : Int) - p.x)).toNat ≤ (q.y - p.y) * (q.x - p.x) := by
      by_cases hy : p.y ≤ q.y
      · have e1 : ((q.y : Int) - p.y) = ((q.y - p.y : Nat) : Int) := by omega
        have e2 : ((x : Int) - p.x) = ((x - p.x : Nat) : Int) := by omega
        rw [e1, e2]
        have : (((q.y - p.y : Nat) : Int) * ((x - p.x : Nat) : Int)).toNat = (q.y - p.y) * (x - p.x) := by
          rw [← Nat.cast_mul]; exact Int.toNat_natCast _
        rw [this]
        exact Nat.mul_le_mul_left _ (by omega)
      · have : ((q.y : Int) - p.y) * ((x : Int) - p.x) ≤ 0 := mul_nonpos_of_nonpos_of_nonneg (by omega) (by omega)
        omega
    have := roundHalfUp_le hD hle
    omega
  · omega

theorem lookupFrom_le {p : Point} {rest : List Point} {x m : Nat} (h1 : p.x < x) (hp : p.y ≤ m)
    (hr : ∀ q ∈ rest, q.y ≤ m) : lookupFrom p rest x ≤ m := by
  induction rest generalizing p with
  | nil => exact hp
  | cons q rest ih =>
    simp only [lookupFrom]
    split
    · exact between_le h1 (by assumption) hp (hr q (by simp))
    · exact ih (by omega) (hr q (by simp)) (fun r hr' => hr r (by simp [hr']))

/-- A lookup never exceeds a bound of its points' y values (R111). -/
theorem curveLookup_le {points : List Point} {x m : Nat} (h : ∀ p ∈ points, p.y ≤ m) : curveLookup points x ≤ m := by
  unfold curveLookup
  split
  · omega
  · split
    · exact h _ (by simp)
    · exact lookupFrom_le (by omega) (h _ (by simp)) (fun q hq => h q (by simp [hq]))

theorem LiveConfig.senderLookup_le {cfg : LiveConfig} (h : cfg.curvesBounded) (g : ChannelId) (x : Nat) :
    curveLookup (cfg.senderCurve g) x ≤ 1000 :=
  curveLookup_le (fun p hp => (h g).1 p (List.mem_of_mem_take hp))

/-! ### The tick -/

/-- A channel at work: not at rest, its filter and its direct reading bounded. -/
structure Channel.Fit (ch : Channel) : Prop where
  filter_le : ch.filter ≤ 16000
  direct_le : ∀ r, ch.directReading = some r → r ≤ 1000
  working : ch.state ≠ .disabled ∧ ch.state ≠ .off ∧ ch.state ≠ .rest

/-- A channel at work is lawful with any duty up to 1000. -/
theorem Channel.Fit.lawful {ch : Channel} (h : ch.Fit) {d : Nat} (hd : d ≤ 1000) :
    Channel.Lawful { ch with duty := d } := by
  refine ⟨h.filter_le, hd, h.direct_le, fun hs => ?_⟩
  have hw := h.working
  simp only at hs
  rcases hs with hs | hs | hs
  · exact absurd hs hw.1
  · exact absurd hs hw.2.1
  · exact absurd hs hw.2.2

/-- The raising at the end of `compensateGauge` and the duty written before it. -/
theorem State.compensateGauge_work (s : State) (g : ChannelId) (ch : Channel) (hg : (s.ge[g]).state ≠ .disabled)
    (hs : ch.state ≠ .disabled) (h : s.GaugesLawful → ch.Fit) : Work s (s.compensateGauge g ch) := by
  unfold State.compensateGauge
  refine Work.trans (State.driveGauge_work s g _ _ ?_ (fun hl => ?_)) (State.raiseIf_work _ _ _)
  · exact iff_of_false hs hg
  · have hf := h hl
    have : Channel.Fit (ch.compensate s.cfg g s.sbu.value).1 := ⟨hf.filter_le, hf.direct_le, hf.working⟩
    exact this.lawful (dutyOf_le _ _)

/-- A driven channel that rests: duty and filter 0. -/
theorem State.driveRest_work (s : State) (g : ChannelId) (ch : Channel) (hg : (s.ge[g]).state ≠ .disabled)
    (hs : ch.state ≠ .disabled) (hf : s.GaugesLawful → ch.filter = 0)
    (hd : s.GaugesLawful → ∀ r, ch.directReading = some r → r ≤ 1000) : Work s (s.driveGauge g ch 0) :=
  State.driveGauge_work s g ch 0 (iff_of_false hs hg)
    (fun hl => ⟨by simp [hf hl], by simp, hd hl, fun _ => ⟨rfl, hf hl⟩⟩)

/-- The raising at the end of `compensateThenRest` and the duty 0 written before it. -/
theorem State.compensateThenRest_work (s : State) (g : ChannelId) (ch : Channel) (hg : (s.ge[g]).state ≠ .disabled)
    (hd : s.GaugesLawful → ∀ r, ch.directReading = some r → r ≤ 1000) : Work s (s.compensateThenRest g ch) := by
  unfold State.compensateThenRest
  refine Work.trans (State.driveRest_work s g _ hg ?_ (fun _ => ?_) (fun hl => ?_)) (State.raiseIf_work _ _ _)
  · simp [Channel.toRest]
  · rfl
  · exact hd hl

theorem State.trackGood_work (s : State) (g : ChannelId) (n : Nat) (ch : Channel) (hg : (s.ge[g]).state ≠ .disabled)
    (hf : s.GaugesLawful → ch.filter ≤ 16000)
    (hd : s.GaugesLawful → ∀ r, ch.directReading = some r → r ≤ 1000) : Work s (s.trackGood g n ch) := by
  unfold State.trackGood
  refine State.compensateGauge_work s g _ hg (by simp) (fun hl => ⟨?_, hd hl, by simp⟩)
  exact filterNext_le (hf hl) (LiveConfig.senderLookup_le hl.1 g _)

theorem State.settleGood_work (s : State) (g : ChannelId) (n : Nat) (ch : Channel)
    (hg : (s.ge[g]).state ≠ .disabled)
    (hd : s.GaugesLawful → ∀ r, ch.directReading = some r → r ≤ 1000) : Work s (s.settleGood g n ch) := by
  unfold State.settleGood
  refine State.compensateGauge_work s g _ hg (by simp) (fun hl => ⟨?_, hd hl, by simp⟩)
  have := LiveConfig.senderLookup_le hl.1 g (resistanceOf (s.cfg.gauges[g]) n)
  simp only [Channel.readSender, Option.getD_some]
  omega

theorem State.settleFaulted_work (s : State) (g : ChannelId) (ch : Channel) (hg : (s.ge[g]).state ≠ .disabled)
    (hs : ch.state = .settling) (hf : s.GaugesLawful → ch.filter ≤ 16000)
    (hd : s.GaugesLawful → ∀ r, ch.directReading = some r → r ≤ 1000) : Work s (s.settleFaulted g ch) := by
  unfold State.settleFaulted
  dsimp only
  have hfit : ∀ hl : s.GaugesLawful, Channel.Fit { ch with faultRun := ch.faultRun + 1 } :=
    fun hl => ⟨hf hl, hd hl, by simp [hs]⟩
  split
  · exact State.driveGauge_work s g _ 0 (iff_of_false (by simp [hs]) hg) (fun hl => (hfit hl).lawful (by omega))
  · refine (s.raise_work .senderFault).trans ?_
    have hg' : ((s.raise .senderFault).ge[g]).state ≠ .disabled := hg
    split
    · exact State.driveRest_work _ g _ hg' (by simp [Channel.toRest]) (fun _ => rfl) (fun hl => hd hl)
    · refine State.driveGauge_work _ g _ 0 (iff_of_false (by simp [Channel.toFaultHold]) hg') (fun hl => ?_)
      have hft : Channel.Fit (Channel.toFaultHold { ch with faultRun := ch.faultRun + 1 }) :=
        ⟨hf hl, hd hl, by simp [Channel.toFaultHold]⟩
      exact hft.lawful (by omega)

theorem State.trackFaulted_work (s : State) (g : ChannelId) (ch : Channel) (hg : (s.ge[g]).state ≠ .disabled)
    (hs : ch.state = .tracking) (hf : s.GaugesLawful → ch.filter ≤ 16000)
    (hd : s.GaugesLawful → ∀ r, ch.directReading = some r → r ≤ 1000) : Work s (s.trackFaulted g ch) := by
  unfold State.trackFaulted
  dsimp only
  split
  · exact State.compensateGauge_work s g _ hg (by simp [hs]) (fun hl => ⟨hf hl, hd hl, by simp [hs]⟩)
  · refine (s.raise_work .senderFault).trans ?_
    have hg' : ((s.raise .senderFault).ge[g]).state ≠ .disabled := hg
    split
    · exact State.compensateThenRest_work _ g _ hg' (fun hl => hd hl)
    · exact State.compensateGauge_work _ g _ hg' (by simp [Channel.toFaultHold])
        (fun hl => ⟨hf hl, hd hl, by simp [Channel.toFaultHold]⟩)

theorem State.holdTick_work (s : State) (g : ChannelId) (n : Nat) (good : Bool) (ch : Channel)
    (hg : (s.ge[g]).state ≠ .disabled) (hs : ch.state = .faultHold) (hf : s.GaugesLawful → ch.filter ≤ 16000)
    (hd : s.GaugesLawful → ∀ r, ch.directReading = some r → r ≤ 1000) : Work s (s.holdTick g n good ch) := by
  unfold State.holdTick
  dsimp only
  split
  · exact State.trackGood_work s g n _ hg hf hd
  · split
    · exact State.driveRest_work s g _ hg (by simp [Channel.toRest]) (fun _ => rfl) hd
    · exact State.compensateGauge_work s g _ hg (by simp [Channel.countGood, hs])
        (fun hl => ⟨hf hl, hd hl, by simp [Channel.countGood, hs]⟩)

theorem State.restTick_work (s : State) (g : ChannelId) (n : Nat) (good : Bool) (ch : Channel)
    (hg : (s.ge[g]).state ≠ .disabled) (hs : ch.state = .rest) (hf : s.GaugesLawful → ch.filter = 0)
    (hd : s.GaugesLawful → ∀ r, ch.directReading = some r → r ≤ 1000) : Work s (s.restTick g n good ch) := by
  unfold State.restTick
  dsimp only
  split
  · exact State.trackGood_work s g n _ hg (fun hl => by show ch.filter ≤ 16000; rw [hf hl]; omega) hd
  · exact State.driveRest_work s g _ hg (by simp [Channel.countGood, hs]) hf hd

theorem State.directTick_work (s : State) (g : ChannelId) (ch : Channel) (hg : (s.ge[g]).state ≠ .disabled)
    (hs : ch.state = .direct) (hf : s.GaugesLawful → ch.filter ≤ 16000)
    (hd : s.GaugesLawful → ∀ r, ch.directReading = some r → r ≤ 1000) : Work s (s.directTick g ch) := by
  unfold State.directTick
  refine State.compensateGauge_work s g _ hg (by simp [hs]) (fun hl => ⟨?_, hd hl, by simp [hs]⟩)
  refine filterNext_le (hf hl) ?_
  cases h : ch.directReading with
  | none => simp
  | some r => simpa using hd hl r h

/-- The warning's evaluation: only an enabled channel evaluates it. -/
theorem State.evaluateWarning_work (s : State) (g : ChannelId) (hg : (s.ge[g]).state ≠ .disabled) :
    Work s (s.evaluateWarning g) := by
  have hset : ∀ ch : Channel, ch.state = (s.ge[g]).state → ch.filter = (s.ge[g]).filter → ch.duty = (s.ge[g]).duty →
      ch.directReading = (s.ge[g]).directReading → Work s (s.setChannel g ch) := fun ch h1 h2 h3 h4 =>
    s.setChannel_work g ch (by rw [h1]) (fun hl => (hl.2 g).of_same h1 h2 h3 h4)
  unfold State.evaluateWarning
  dsimp only
  split
  · exact .refl s
  · rename_i hw
    split
    · split
      · split
        · exact (hset { s.ge[g] with clearCount := 0, warning := false } rfl rfl rfl rfl).trans
            (State.retireKey_work _ _ _)
        · exact hset _ rfl rfl rfl rfl
      · exact hset _ rfl rfl rfl rfl
    · split
      · split
        · refine (hset { s.ge[g] with setCount := 0, warning := true } rfl rfl rfl rfl).trans
            (State.placeInternal_work _ _ (by simp [warningPlacement]) (fun h => ?_))
          have h' := (hset { s.ge[g] with setCount := 0, warning := true } rfl rfl rfl rfl).configSound.1 h
          exact CircuitCfg.takesDemands_of_essentialLamp (h'.warning g hg (by simpa using hw))
        · exact hset _ rfl rfl rfl rfl
      · exact hset _ rfl rfl rfl rfl

/-- One gauge tick. -/
theorem State.gaugeTick_work (s : State) (g : ChannelId) : Work s (s.gaugeTick g) := by
  have hf : s.GaugesLawful → (s.ge[g]).filter ≤ 16000 := fun hl => (hl.2 g).filter_le
  have hd : s.GaugesLawful → ∀ r, (s.ge[g]).directReading = some r → r ≤ 1000 := fun hl => (hl.2 g).direct_le
  have hr : s.GaugesLawful → (s.ge[g]).state = .rest → (s.ge[g]).filter = 0 :=
    fun hl h => ((hl.2 g).resting (.inr (.inr h))).2
  unfold State.gaugeTick
  dsimp only
  split
  · exact s.setChannel_work g _ Iff.rfl (fun hl => (hl.2 g).of_same rfl rfl rfl rfl)
  · generalize meanOf (s.ge[g]).codes = n
    have hs : ({ s.ge[g] with
      tickDue := some (s.now + 100), code := n, averaged := (s.ge[g]).codes.length } : Channel).state =
        (s.ge[g]).state := rfl
    generalize hch : ({ s.ge[g] with
      tickDue := some (s.now + 100), code := n, averaged := (s.ge[g]).codes.length } : Channel) = ch at hs
    have hf' : s.GaugesLawful → ch.filter ≤ 16000 := by subst hch; exact hf
    have hd' : s.GaugesLawful → ∀ r, ch.directReading = some r → r ≤ 1000 := by subst hch; exact hd
    have hr' : s.GaugesLawful → (s.ge[g]).state = .rest → ch.filter = 0 := by subst hch; exact hr
    change Work s (match (s.ge[g]).state with
      | .settling => if codeGood (s.cfg.gauges[g]) n then s.settleGood g n ch else s.settleFaulted g ch
      | .tracking =>
        if codeGood (s.cfg.gauges[g]) n then (s.trackGood g n ch).evaluateWarning g else s.trackFaulted g ch
      | .faultHold => s.holdTick g n (codeGood (s.cfg.gauges[g]) n) ch
      | .rest => s.restTick g n (codeGood (s.cfg.gauges[g]) n) ch
      | .direct => s.directTick g ch
      | .off => s
      | .disabled => s)
    clear hf hd hr hch
    generalize hst : (s.ge[g]).state = st at hs hr'
    have hg : st ≠ .disabled → (s.ge[g]).state ≠ .disabled := fun h => by rwa [hst]
    cases st with
    | disabled => exact .refl s
    | off => exact .refl s
    | settling =>
      dsimp only
      split
      · exact State.settleGood_work s g _ _ (hg (by simp)) hd'
      · exact State.settleFaulted_work s g _ (hg (by simp)) hs hf' hd'
    | tracking =>
      dsimp only
      split
      · have hw := State.trackGood_work s g n ch (hg (by simp)) hf' hd'
        exact hw.trans (State.evaluateWarning_work _ g (fun he => hg (by simp) ((hw.disabled g).1 he)))
      · exact State.trackFaulted_work s g _ (hg (by simp)) hs hf' hd'
    | faultHold => exact State.holdTick_work s g _ _ _ (hg (by simp)) hs hf' hd'
    | rest => exact State.restTick_work s g _ _ _ (hg (by simp)) hs (fun hl => hr' hl rfl) hd'
    | direct => exact State.directTick_work s g _ (hg (by simp)) hs hf' hd'

/-! ### The ignition at the gauges, the host's drive -/

theorem Channel.cleared_lawful (state : GaugeState) (codes : List Nat) (due : Option Nat) :
    Channel.Lawful { Channel.cleared state codes due with duty := 0 } :=
  ⟨by simp [Channel.cleared, Channel.reset], by simp, by simp [Channel.cleared, Channel.reset],
    fun _ => ⟨rfl, rfl⟩⟩

theorem State.gaugeOff_work (s : State) (g : ChannelId) : Work s (s.gaugeOff g) := by
  unfold State.gaugeOff
  dsimp only
  split
  · exact .refl s
  · rename_i h
    have hg : (s.ge[g]).state ≠ .disabled := fun e => h (.inr e)
    have hw : Work s (s.driveGauge g (Channel.cleared .off (s.ge[g]).codes (s.ge[g]).convertDue) 0) :=
      State.driveGauge_work s g _ 0 (iff_of_false (by simp [Channel.cleared]) hg) (fun _ => Channel.cleared_lawful _ _ _)
    split
    · exact hw.trans (State.retireKey_work _ _ _)
    · exact hw

theorem State.gaugeOn_work (s : State) (g : ChannelId) : Work s (s.gaugeOn g) := by
  unfold State.gaugeOn
  dsimp only
  split
  · rename_i h
    exact s.setChannel_work g _ (iff_of_false (by simp [Channel.toSettling]) (by rw [h]; simp))
      (fun hl => ⟨by simp [Channel.toSettling], (hl.2 g).duty_le, (hl.2 g).direct_le, by simp [Channel.toSettling]⟩)
  · exact .refl s

theorem State.convert_work (s : State) (g : ChannelId) (code : Nat) : Work s (s.convert g code) :=
  s.setChannel_work g _ Iff.rfl (fun hl => (hl.2 g).of_same rfl rfl rfl rfl)

theorem State.toDirect_work (s : State) (g : ChannelId) (r : Nat) (h : (s.ge[g]).state.admitsDirect = true)
    (hr : r ≤ 1000) : Work s (s.setChannel g ((s.ge[g]).toDirect r)) := by
  have hst : ((s.ge[g]).toDirect r).state = .direct := by
    unfold Channel.toDirect; split <;> simp_all
  have hg : (s.ge[g]).state ≠ .disabled := fun e => by rw [e] at h; simp [GaugeState.admitsDirect] at h
  refine s.setChannel_work g _ (iff_of_false (by rw [hst]; simp) hg) (fun hl => ?_)
  refine ⟨?_, ?_, ?_, by rw [hst]; simp⟩
  · unfold Channel.toDirect; split <;> exact (hl.2 g).filter_le
  · unfold Channel.toDirect; split <;> exact (hl.2 g).duty_le
  · intro q hq
    have : q = r := by
      unfold Channel.toDirect at hq; split at hq <;> simp_all
    omega

theorem State.toSender_work (s : State) (g : ChannelId) (h : (s.ge[g]).state = .direct) :
    Work s (s.setChannel g (s.ge[g]).toSender) :=
  s.setChannel_work g _ (iff_of_false (by simp [Channel.toSender]) (by rw [h]; simp))
    (fun hl => ⟨(hl.2 g).filter_le, (hl.2 g).duty_le, by simp [Channel.toSender], by simp [Channel.toSender]⟩)

end Sys2Proof.Machine
end

