-- ==== Sys2Proof/Laws/BindingWork.lean ====
section
/-! SUPPORT. The bindings, the ignition and the samples as chains of moves (Laws/Work.lean). -/

namespace Sys2Proof.Machine

open Sys2Proof

theorem State.setBinding_work (s : State) (n : BindingId) (b : BindingState) : Work s (s.setBinding n b) :=
  s.inputs_work _

theorem State.setHeld_work (s : State) (n : BindingId) (h : Held) : Work s (s.setHeld n h) := s.inputs_work _

theorem State.holdDemand_work (s : State) (n : BindingId) (c : CircuitId) (timed : Bool)
    (he : (s.cfg.bindings[n]).enable = true) (hc : (s.cfg.bindings[n]).action.circuit? = some c) :
    Work s (s.holdDemand n c timed) := by
  unfold State.holdDemand
  refine (s.setHeld_work n .demand).trans (State.placeInternal_work _ _ (by simp [bindingPlacement]) (fun h => ?_))
  exact ((s.setHeld_work n .demand).configSound.1 h).target n he hc

theorem State.holdRequest_work (s : State) (n : BindingId) (lanes : LaneSet) : Work s (s.holdRequest n lanes) :=
  (s.setHeld_work n .request).trans (State.placeRequest_work _ _ _)

theorem State.dropHeld_work (s : State) (n : BindingId) : Work s (s.dropHeld n) := by
  unfold State.dropHeld
  split
  · exact .refl s
  · exact (s.setHeld_work n .none).trans (State.retireKey_work _ _ _)
  · exact (s.setHeld_work n .none).trans (State.retireRequest_work _ _)

theorem State.act_work (s : State) (n : BindingId) (edge now : Bool) (he : (s.cfg.bindings[n]).enable = true) :
    Work s (s.act n edge now) := by
  unfold State.act
  split
  · rename_i c hc
    split
    · exact s.holdDemand_work n c false he (by rw [hc]; rfl)
    · exact s.dropHeld_work n
  · split
    · exact s.holdRequest_work n _
    · exact s.dropHeld_work n
  · rename_i c hc
    split
    · split
      · exact s.holdDemand_work n c false he (by rw [hc]; rfl)
      · exact s.dropHeld_work n
    · exact .refl s
  · rename_i c hc
    split
    · exact s.holdDemand_work n c true he (by rw [hc]; rfl)
    · exact .refl s
  · split
    · split
      · exact s.holdRequest_work n _
      · exact s.dropHeld_work n
    · exact .refl s

theorem State.evaluateBinding_work (s : State) (n : BindingId) : Work s (s.evaluateBinding n) := by
  unfold State.evaluateBinding
  dsimp only
  split
  · rename_i h
    have he : (s.cfg.bindings[n]).enable = true := (Bool.and_eq_true_iff.1 (Bool.and_eq_true_iff.1 h).1).1
    exact (s.setBinding_work n _).trans (State.act_work _ n _ _ he)
  · exact .refl s

theorem State.ignitionOffBinding_work (s : State) (n : BindingId) : Work s (s.ignitionOffBinding n) := by
  unfold State.ignitionOffBinding
  dsimp only
  split
  · exact (s.setBinding_work n _).trans (State.dropHeld_work _ n)
  · exact .refl s

theorem State.editBinding_work (s : State) (n : BindingId) : Work s (s.editBinding n) := by
  unfold State.editBinding
  exact ((s.dropHeld_work n).trans (State.setBinding_work _ n _)).trans (State.evaluateBinding_work _ n)

theorem State.takeBindings_work (s : State) (touched : BindingCfg → Bool) (off : Bool) (which : List BindingId) :
    Work s (s.takeBindings touched off which) := by
  refine Work.foldl _ (fun t n => ?_) _ s
  split
  · split
    · exact t.ignitionOffBinding_work n
    · exact t.evaluateBinding_work n
  · exact .refl t

theorem State.announceOn_work (s : State) : Work s s.announceOn :=
  (Work.foldl _ (fun t g => t.gaugeOn_work g) allChannels s).trans (State.setPower_work _ _)

theorem State.announceOff_work (s : State) : Work s s.announceOff :=
  ((s.retireAndTell_work _).trans (Work.foldl _ (fun t g => t.gaugeOff_work g) allChannels _)).trans
    (State.setPower_work _ _)

theorem State.announce_work (s : State) : Work s s.announce := by
  unfold State.announce
  split
  · exact s.announceOn_work
  · exact s.announceOff_work

theorem State.ignitionEvent_work (s : State) (touched : BindingCfg → Bool) (off : Bool) :
    Work s (s.ignitionEvent touched off) := by
  unfold State.ignitionEvent
  exact (((s.choose_work 17).trans (State.takeBindings_work _ _ _ _)).trans (State.announce_work _)).trans
    (State.takeBindings_work _ _ _ _)

theorem State.formIgnition_work (s : State) (touched : BindingCfg → Bool) : Work s (s.formIgnition touched) := by
  unfold State.formIgnition
  dsimp only
  split
  · exact (s.inputs_work { s.ibu with ignition := s.ignitionLevel }).trans (State.takeBindings_work _ _ _ _)
  · exact (s.inputs_work { s.ibu with ignition := s.ignitionLevel }).trans (State.ignitionEvent_work _ _ _)

theorem State.senseSample_work (s : State) (levels : BitVec 12) : Work s (s.senseSample levels) := by
  unfold State.senseSample
  dsimp only
  split
  · exact ((s.inputs_work _).trans (State.restartSleep_work _)).trans (State.formIgnition_work _ _)
  · exact s.inputs_work _

/-! ### The cascades that place and retire -/

theorem State.laneWritten_work (s : State) (old : LiveConfig) (side : Side) : Work s (s.laneWritten old side) := by
  unfold State.laneWritten
  dsimp only
  split
  · exact .refl s
  · split
    · exact (s.retireLane_work side _).trans (State.placeLane_work _ side)
    · have h : Work s (if (old.lane side).priority = (s.cfg.lane side).priority then s else s.placeLane side) := by
        split
        · exact .refl s
        · exact s.placeLane_work side
      split
      · exact h
      · exact h.trans (State.resolveAll_work _ _ _ _)

theorem State.bindingWritten_work (s : State) (old : LiveConfig) (n : BindingId) : Work s (s.bindingWritten old n) := by
  unfold State.bindingWritten
  split
  · exact .refl s
  · exact s.editBinding_work n

theorem State.flashWritten_work (s : State) (old : LiveConfig) : Work s (s.flashWritten old) := by
  unfold State.flashWritten
  split
  · exact .refl s
  · exact s.flasher_work _ (s.fu.tickMode_wireLow _)

theorem State.budgetWritten_work (s : State) (old : LiveConfig) : Work s (s.budgetWritten old) := by
  unfold State.budgetWritten
  dsimp only
  refine ((s.supply_work _ ?_).trans (State.chargeLamp_work _)).trans (State.event_work _ true)
  split <;> split <;> rfl

theorem State.linkWritten_work (s : State) (old : LiveConfig) : Work s (s.linkWritten old) := by
  unfold State.linkWritten
  split
  · exact .refl s
  · refine Work.trans (t := s.reformIgnition) ?_ (Work.foldl _ (fun t n => ?_) _ _)
    · unfold State.reformIgnition
      dsimp only
      split
      · exact .refl s
      · exact (s.inputs_work { s.ibu with ignition := s.ignitionLevel }).trans (State.ignitionEvent_work _ _ _)
    · split
      · exact t.editBinding_work n
      · exact .refl t

/-! ### The host's demands -/

theorem State.lampTest_work (s : State) (duration : Nat) :
    Work s (s.cfg.participants.foldl (fun t c => t.placeInternal (testPlacement duration c)) s) := by
  refine Work.foldl_mem _ _ s (fun t ht c hc => State.placeInternal_work t _ (by simp [testPlacement]) (fun h => ?_))
  refine Kind.takesDemands_of_isLamp (h.2.1 c ?_)
  rw [ht.cfg]
  exact (List.mem_filter.1 hc).2

theorem State.holdExpiry_work (s : State) : Work s s.expireHolds :=
  (s.retireAndTell_work _).trans (State.raiseIf_work _ _ _)

end Sys2Proof.Machine
end

