-- ==== Sys2Proof/Laws/Entries.lean ====
section
/-! SUPPORT. What each entry of R166 shows, as Safety.lean spells the layouts. -/

namespace Sys2Proof.Machine

open Sys2Proof

/-- The flags of a table entry: one bit for each of four marks. -/
theorem showsSet_four (a b c d : Bool) : showsSet (bit 1 a + bit 2 b + bit 4 c + bit 8 d) ![a, b, c, d] := by
  constructor
  · revert a b c d; decide
  · revert a b c d; decide

/-- A set of bits shows its members. -/
theorem showsSet_toNat {n : Nat} (x : BitVec n) : showsSet x.toNat (fun i : Fin n => x.getLsbD i.val) :=
  ⟨x.isLt, fun _ => rfl⟩

theorem CircuitCfg.bytes_shown (k : CircuitCfg) : k.Shown k.bytes :=
  ⟨_, _, by unfold CircuitCfg.bytes Kind.code yesNo; cases k.kind <;> cases k.lampTest <;> rfl, rfl, rfl⟩

theorem BindingCfg.bytes_shown (b : BindingCfg) : b.Shown b.bytes := by
  refine ⟨bit 1 b.enable + bit 2 b.gated + bit 4 b.primaryActive + bit 8 b.secondActive + 16 * b.priority,
    b.primary.val + 16 * (match b.second with | none => 15 | some i => i.val),
    b.action.bytes.getD 0 0, b.action.bytes.getD 1 0, ?_, ?_, ?_, ?_, ?_, ?_, ?_, ?_, ?_, ?_, ?_⟩
  · unfold BindingCfg.bytes Action.bytes; cases b.action <;> rfl
  · have h := showsSet_four b.enable b.gated b.primaryActive b.secondActive
    rwa [Nat.add_mul_mod_self_left, Nat.mod_eq_of_lt (show _ < 16 from h.1)]
  · have h := (showsSet_four b.enable b.gated b.primaryActive b.secondActive).1
    rw [Nat.add_mul_div_left _ _ (by decide), Nat.div_eq_of_lt (show _ < 16 from h), Nat.zero_add]
  · rw [Nat.add_mul_mod_self_left, Nat.mod_eq_of_lt (by omega)]
  · intro h; rw [h]; dsimp only; omega
  · intro i h; rw [h]; dsimp only; omega
  · intro c h; rw [h]; exact ⟨rfl, rfl⟩
  · intro c h; rw [h]; exact ⟨rfl, rfl⟩
  · intro c h; rw [h]; exact ⟨rfl, rfl⟩
  · intro l h; rw [h]; cases l <;> exact ⟨rfl, rfl⟩
  · intro l h; rw [h]; cases l <;> exact ⟨rfl, rfl⟩

theorem LaneCfg.bytes_shown (l : LaneCfg) : l.Shown l.bytes := by
  refine ⟨(l.members.map (fun c => byteOf c.val) ++ List.replicate 4 (0xFF : Byte)).take 4, rfl, ?_, ?_⟩
  · simp
  · intro j hj
    rw [List.getElem?_take_of_lt hj]
    constructor
    · intro c h
      rw [List.getElem?_append_left (by simpa using (List.getElem?_eq_some_iff.mp h).1), List.getElem?_map, h]; rfl
    · intro h
      have h' : l.members.length ≤ j := List.getElem?_eq_none_iff.mp h
      rw [List.getElem?_append_right (by simpa using h'), List.getElem?_replicate, if_pos (by simp; omega)]

theorem FlashCfg.bytes_shown (f : FlashCfg) : f.Shown f.bytes :=
  ⟨f.tick.code, rfl, by unfold TickMode.code; cases f.tick <;> rfl⟩

theorem GaugeCfg.bytes_shown (g : GaugeCfg) : g.Shown g.bytes := ⟨_, rfl, showsSet_four _ _ _ _⟩

theorem FanCfg.bytes_shown (f : FanCfg) : f.Shown f.bytes := by
  have h : f.steps.toList = [f.steps[0], f.steps[1], f.steps[2], f.steps[3]] := by
    apply List.ext_getElem
    · simp
    · intro i h1 h2
      simp at h1
      interval_cases i <;> simp
  unfold FanCfg.Shown FanCfg.bytes
  rw [h]
  simp

theorem BudgetCfg.bytes_shown (b : BudgetCfg) : b.Shown b.bytes := by
  refine ⟨match b.system with | .six => 6 | .twelve => 12, match b.lamp with | none => 255 | some c => c.val,
    ?_, ?_, ?_, ?_, ?_⟩
  · unfold BudgetCfg.bytes SystemVoltage.code; cases b.system <;> cases b.lamp <;> rfl
  · intro h; rw [h]
  · intro h; rw [h]
  · intro h; rw [h]
  · intro c h; rw [h]

theorem LinkCfg.bytes_shown (l : LinkCfg) : l.Shown l.bytes :=
  ⟨_, _, rfl, showsSet_toNat _, showsSet_toNat _⟩

end Sys2Proof.Machine
end

