-- ==== Sys2Proof/Laws/Memory.lean ====
section
/-! SUPPORT. The laws of the image's memory: every operation keeps the canonical form, and what each leaves at each
address. -/

namespace Sys2Proof.Machine

open Sys2Proof

/-! ### Reading -/

/-- An address below every listed one reads as the blank byte. -/
theorem Memory.read_eq_blank_of_forall_lt {m : Memory} {a : Nat} (h : ∀ p ∈ m, a < p.1) :
    m.read a = Memory.blankByte := by
  induction m with
  | nil => rfl
  | cons p m ih =>
    have hp := h p (by simp)
    have hne : p.1 ≠ a := by omega
    simp only [Memory.read, hne, if_false]
    exact ih (fun q hq => h q (by simp [hq]))

/-- An address that no cell lists reads as the blank byte. -/
theorem Memory.read_eq_blank_of_forall_ne {m : Memory} {a : Nat} (h : ∀ p ∈ m, p.1 ≠ a) :
    m.read a = Memory.blankByte := by
  induction m with
  | nil => rfl
  | cons p m ih =>
    simp only [Memory.read, h p (by simp), if_false]
    exact ih (fun q hq => h q (by simp [hq]))

theorem Memory.read_append {m n : Memory} {a : Nat} (h : ∀ p ∈ m, p.1 ≠ a) :
    Memory.read (m ++ n) a = n.read a := by
  induction m with
  | nil => rfl
  | cons p m ih =>
    simp only [List.cons_append, Memory.read, h p (by simp), if_false]
    exact ih (fun q hq => h q (by simp [hq]))

theorem Memory.read_append_left {m n : Memory} {a : Nat} (h : ∀ p ∈ n, p.1 ≠ a) :
    Memory.read (m ++ n) a = m.read a := by
  induction m with
  | nil => exact Memory.read_eq_blank_of_forall_ne h
  | cons p m ih => simp only [List.cons_append, Memory.read, ih]

theorem Memory.read_filter {m : Memory} {a : Nat} (f : Nat → Bool) :
    Memory.read (m.filter (fun p => f p.1)) a = if f a then m.read a else Memory.blankByte := by
  induction m with
  | nil => simp [Memory.read]
  | cons p m ih =>
    by_cases hp : f p.1 = true
    · rw [List.filter_cons_of_pos (by simpa using hp)]
      by_cases ha : p.1 = a
      · subst ha; simp [Memory.read, hp]
      · simp only [Memory.read, ha, if_false, ih]
    · rw [List.filter_cons_of_neg (by simpa using hp)]
      by_cases ha : p.1 = a
      · subst ha; simp only [ih, hp]; rfl
      · simp only [Memory.read, ha, if_false, ih]

/-! ### Writing one byte -/

theorem Memory.mem_write {m : Memory} {a : Nat} {v : Byte} {p : Host.Cell} (h : p ∈ m.write a v) :
    p ∈ m ∨ (p = (a, v) ∧ v ≠ Memory.blankByte) := by
  induction m with
  | nil =>
    simp only [Memory.write] at h
    split at h <;> simp_all
  | cons q m ih =>
    simp only [Memory.write] at h
    split at h
    · rcases List.mem_cons.1 h with h | h
      · exact .inl (by simp [h])
      · rcases ih h with h | h
        · exact .inl (by simp [h])
        · exact .inr h
    · split at h
      · split at h
        · exact .inl (by simp [h])
        · rcases List.mem_cons.1 h with h | h
          · exact .inr ⟨h, by assumption⟩
          · exact .inl (by simp [h])
      · split at h
        · exact .inl h
        · rcases List.mem_cons.1 h with h | h
          · exact .inr ⟨h, by assumption⟩
          · exact .inl h

/-- A write keeps the canonical form. -/
theorem Memory.write_wf {m : Memory} (h : m.wf) (a : Nat) (v : Byte) : (m.write a v).wf := by
  refine ⟨?_, fun p hp => ?_⟩
  · have hs := h.1
    clear h
    induction m with
    | nil => simp only [Memory.write]; split <;> simp
    | cons q m ih =>
      have hq := List.pairwise_cons.1 hs
      simp only [Memory.write]
      split
      · rename_i hlt
        refine List.pairwise_cons.2 ⟨fun p hp => ?_, ih hq.2⟩
        rcases Memory.mem_write hp with hp | ⟨rfl, _⟩
        · exact hq.1 p hp
        · exact hlt
      · rename_i hlt
        split
        · rename_i heq
          split
          · exact hq.2
          · exact List.pairwise_cons.2 ⟨fun p hp => by have := hq.1 p hp; simp only at this heq ⊢; omega, hq.2⟩
        · rename_i hne
          split
          · exact hs
          · refine List.pairwise_cons.2 ⟨fun p hp => ?_, hs⟩
            rcases List.mem_cons.1 hp with rfl | hp
            · simp only; omega
            · have := hq.1 p hp; simp only at this ⊢; omega
  · rcases Memory.mem_write hp with hp | ⟨rfl, hv⟩
    · exact h.2 p hp
    · exact hv

/-- What a write leaves at each address. -/
theorem Memory.read_write {m : Memory} (h : m.wf) (a b : Nat) (v : Byte) :
    (m.write a v).read b = if b = a then v else m.read b := by
  have hs := h.1
  clear h
  induction m with
  | nil =>
    by_cases hv : v = Memory.blankByte
    · simp [Memory.write, Memory.read, hv]
    · by_cases hb : b = a
      · subst hb; simp [Memory.write, Memory.read, hv]
      · have hb' : a ≠ b := Ne.symm hb
        simp [Memory.write, Memory.read, hv, hb, hb']
  | cons q m ih =>
    have hq := List.pairwise_cons.1 hs
    have hih := ih hq.2
    simp only [Memory.write]
    by_cases h1 : q.1 < a
    · simp only [h1, if_true, Memory.read, hih]
      by_cases hqb : q.1 = b
      · have : b ≠ a := by omega
        simp [hqb, this]
      · simp [hqb]
    · simp only [h1, if_false]
      by_cases h2 : q.1 = a
      · simp only [h2, if_true]
        by_cases hv : v = Memory.blankByte
        · simp only [hv, if_true, Memory.read, h2]
          by_cases hb : b = a
          · subst hb
            simp only [if_true]
            exact Memory.read_eq_blank_of_forall_lt (fun p hp => by have := hq.1 p hp; omega)
          · have hb' : a ≠ b := Ne.symm hb
            simp [hb, hb']
        · simp only [hv, if_false, Memory.read, h2]
          by_cases hb : b = a
          · subst hb; simp
          · have hb' : a ≠ b := Ne.symm hb
            simp [hb, hb']
      · simp only [h2, if_false]
        by_cases hv : v = Memory.blankByte
        · simp only [hv, if_true]
          by_cases hb : b = a
          · subst hb
            simp only [if_true]
            refine Memory.read_eq_blank_of_forall_lt (fun p hp => ?_)
            rcases List.mem_cons.1 hp with rfl | hp
            · omega
            · have := hq.1 p hp; omega
          · simp [hb]
        · simp only [hv, if_false]
          rw [Memory.read]
          by_cases hb : b = a
          · subst hb; simp
          · have hb' : a ≠ b := Ne.symm hb
            simp only [hb, hb', if_false]

/-! ### Writing several bytes of one range -/

theorem Memory.writeCells_wf {m : Memory} (h : m.wf) (lo len : Nat) (cells : List (Nat × Byte)) :
    (m.writeCells lo len cells).wf := by
  induction cells generalizing m with
  | nil => exact h
  | cons c cells ih =>
    simp only [Memory.writeCells]
    split
    · exact ih (Memory.write_wf h _ _)
    · exact ih h

/-- Bytes outside the range stand. -/
theorem Memory.read_writeCells {m : Memory} (h : m.wf) (lo len : Nat) (cells : List (Nat × Byte)) (a : Nat)
    (ha : a < lo ∨ lo + len ≤ a) : (m.writeCells lo len cells).read a = m.read a := by
  induction cells generalizing m with
  | nil => rfl
  | cons c cells ih =>
    simp only [Memory.writeCells]
    split
    · rename_i hlt
      rw [ih (Memory.write_wf h _ _), Memory.read_write h]
      have : a ≠ lo + c.1 := by omega
      simp [this]
    · exact ih h

/-! ### Replacing a range -/

theorem Memory.copyRange_wf {m src : Memory} (h : m.wf) (hs : src.wf) {lo hi : Nat} (hle : lo ≤ hi) :
    (m.copyRange src lo hi).wf := by
  have key : ∀ {f : Host.Cell → Bool} {n : Memory}, n.wf → List.Pairwise (fun p q : Host.Cell => p.1 < q.1) (n.filter f) :=
    fun hn => hn.1.filter _
  refine ⟨?_, fun p hp => ?_⟩
  · unfold Memory.copyRange
    rw [List.pairwise_append, List.pairwise_append]
    refine ⟨⟨key h, key hs, ?_⟩, key h, ?_⟩
    · intro p hp q hq
      have h1 := of_decide_eq_true (List.mem_filter.1 hp).2
      have h2 := of_decide_eq_true (List.mem_filter.1 hq).2
      omega
    · intro p hp q hq
      have h2 := of_decide_eq_true (List.mem_filter.1 hq).2
      rcases List.mem_append.1 hp with hp | hp
      · have h1 := of_decide_eq_true (List.mem_filter.1 hp).2
        omega
      · have h1 := of_decide_eq_true (List.mem_filter.1 hp).2
        omega
  · unfold Memory.copyRange at hp
    rcases List.mem_append.1 hp with hp | hp
    · rcases List.mem_append.1 hp with hp | hp
      · exact h.2 p (List.mem_filter.1 hp).1
      · exact hs.2 p (List.mem_filter.1 hp).1
    · exact h.2 p (List.mem_filter.1 hp).1

/-- What replacing a range leaves at each address. -/
theorem Memory.read_copyRange (m src : Memory) {lo hi : Nat} (hle : lo ≤ hi) (a : Nat) :
    (m.copyRange src lo hi).read a = if lo ≤ a ∧ a < hi then src.read a else m.read a := by
  have e1 : ∀ p ∈ m.filter (fun p => decide (p.1 < lo)), p.1 < lo :=
    fun p hp => of_decide_eq_true (List.mem_filter.1 hp).2
  have e2 : ∀ p ∈ src.filter (fun p => decide (lo ≤ p.1 ∧ p.1 < hi)), lo ≤ p.1 ∧ p.1 < hi :=
    fun p hp => of_decide_eq_true (List.mem_filter.1 hp).2
  have e3 : ∀ p ∈ m.filter (fun p => decide (hi ≤ p.1)), hi ≤ p.1 :=
    fun p hp => of_decide_eq_true (List.mem_filter.1 hp).2
  unfold Memory.copyRange
  by_cases h1 : a < lo
  · have hn : ¬ (lo ≤ a ∧ a < hi) := by omega
    rw [if_neg hn, Memory.read_append_left (fun p hp => by have := e3 p hp; omega),
      Memory.read_append_left (fun p hp => by have := e2 p hp; omega),
      Memory.read_filter (fun x => decide (x < lo))]
    simp [h1]
  · by_cases h2 : a < hi
    · have hy : lo ≤ a ∧ a < hi := by omega
      rw [if_pos hy, Memory.read_append_left (fun p hp => by have := e3 p hp; omega),
        Memory.read_append (fun p hp => by have := e1 p hp; omega),
        Memory.read_filter (fun x => decide (lo ≤ x ∧ x < hi))]
      simp [hy]
    · have hn : ¬ (lo ≤ a ∧ a < hi) := by omega
      rw [if_neg hn, Memory.read_append (fun p hp => ?_), Memory.read_filter (fun x => decide (hi ≤ x))]
      · have : hi ≤ a := by omega
        simp [this]
      · rcases List.mem_append.1 hp with hp | hp
        · have := e1 p hp; omega
        · have := e2 p hp; omega

/-! ### A run of bytes -/

theorem Memory.ofBytes_ge (bytes : List Byte) (a : Nat) : ∀ p ∈ Memory.ofBytes a bytes, a ≤ p.1 := by
  induction bytes generalizing a with
  | nil => simp [Memory.ofBytes]
  | cons v vs ih =>
    intro p hp
    simp only [Memory.ofBytes] at hp
    split at hp
    · have := ih (a + 1) p hp; omega
    · rcases List.mem_cons.1 hp with rfl | hp
      · simp
      · have := ih (a + 1) p hp; omega

theorem Memory.ofBytes_wf (bytes : List Byte) (a : Nat) : (Memory.ofBytes a bytes).wf := by
  induction bytes generalizing a with
  | nil => simp [Memory.ofBytes, Memory.wf]
  | cons v vs ih =>
    simp only [Memory.ofBytes]
    split
    · exact ih (a + 1)
    · rename_i hv
      refine ⟨List.pairwise_cons.2 ⟨fun p hp => ?_, (ih (a + 1)).1⟩, fun p hp => ?_⟩
      · have := Memory.ofBytes_ge vs (a + 1) p hp; simp only; omega
      · rcases List.mem_cons.1 hp with rfl | hp
        · exact hv
        · exact (ih (a + 1)).2 p hp

/-- What a run of bytes leaves at each address. -/
theorem Memory.read_ofBytes (bytes : List Byte) (a b : Nat) :
    (Memory.ofBytes a bytes).read b = if a ≤ b then bytes.getD (b - a) Memory.blankByte else Memory.blankByte := by
  induction bytes generalizing a with
  | nil => simp [Memory.ofBytes, Memory.read]
  | cons v vs ih =>
    have hgt : ∀ c, c < a + 1 → (Memory.ofBytes (a + 1) vs).read c = Memory.blankByte := fun c hc =>
      Memory.read_eq_blank_of_forall_lt (fun p hp => by have := Memory.ofBytes_ge vs (a + 1) p hp; omega)
    simp only [Memory.ofBytes]
    by_cases hab : a ≤ b
    · by_cases heq : a = b
      · subst heq
        split
        · rename_i hv; rw [hgt _ (by omega)]; simp [hv]
        · simp [Memory.read]
      · have h1 : a + 1 ≤ b := by omega
        have h2 : b - a = (b - (a + 1)) + 1 := by omega
        split
        · rw [ih]; simp only [h1, if_true]; rw [h2]; simp
        · simp only [Memory.read, heq, if_false]
          rw [ih]; simp only [h1, if_true]; rw [h2]; simp
    · have h1 : ¬ a + 1 ≤ b := by omega
      have heq : a ≠ b := by omega
      split
      · rw [ih]; simp [h1]
      · simp only [Memory.read, heq, if_false]; rw [ih]; simp [h1]

/-- Bytes read back as a list. -/
theorem Memory.bytes_eq_map (m : Memory) (a len : Nat) :
    m.bytes a len = (List.range len).map (fun i => m.read (a + i)) := by
  induction len generalizing a with
  | zero => rfl
  | succ n ih =>
    rw [Memory.bytes, ih, List.range_succ_eq_map]
    simp [Nat.add_comm, Nat.add_left_comm]

theorem Memory.bytes_length (m : Memory) (a len : Nat) : (m.bytes a len).length = len := by
  simp [Memory.bytes_eq_map]

/-- A run of bytes reads back as itself. -/
theorem Memory.bytes_ofBytes (bytes : List Byte) (off len : Nat) (h : off + len ≤ bytes.length) :
    (Memory.ofBytes 0 bytes).bytes off len = (bytes.drop off).take len := by
  rw [Memory.bytes_eq_map]
  apply List.ext_getElem?
  intro i
  by_cases hi : i < len
  · have h3 : off + i < bytes.length := by omega
    simp [hi, Memory.read_ofBytes, List.getElem?_drop, h3]
  · simp [hi]

/-! ### The image -/

theorem programPage_wf {image buffer : Memory} (h : image.wf) (hb : buffer.wf) (page : Nat) (d : PageDefects) :
    (programPage image buffer page d).wf :=
  Memory.writeCells_wf (Memory.copyRange_wf h hb (by omega)) _ _ _

theorem erasePage_wf {image : Memory} (h : image.wf) (page : Nat) (d : PageDefects) :
    (erasePage image page d).wf :=
  Memory.writeCells_wf (Memory.copyRange_wf h (by simp [Memory.wf]) (by omega)) _ _ _

theorem imageOf_wf (lock : Bool) (cfg : LiveConfig) : (imageOf lock cfg).wf := Memory.ofBytes_wf _ _

/-- A page operation leaves the bytes of every other page as they stand. -/
theorem read_programPage_of_other {image buffer : Memory} (h : image.wf) (hb : buffer.wf) (page : Nat)
    (d : PageDefects) (a : Nat) (ha : a / pageSize ≠ page) :
    (programPage image buffer page d).read a = image.read a := by
  have hp : a < pageSize * page ∨ pageSize * page + pageSize ≤ a := by
    simp only [pageSize] at *; omega
  unfold programPage
  rw [Memory.read_writeCells (Memory.copyRange_wf h hb (by omega)) _ _ _ _ hp, Memory.read_copyRange _ _ (by omega),
    if_neg (by omega)]

theorem read_erasePage_of_other {image : Memory} (h : image.wf) (page : Nat)
    (d : PageDefects) (a : Nat) (ha : a / pageSize ≠ page) :
    (erasePage image page d).read a = image.read a := by
  have hp : a < pageSize * page ∨ pageSize * page + pageSize ≤ a := by
    simp only [pageSize] at *; omega
  unfold erasePage
  rw [Memory.read_writeCells (Memory.copyRange_wf h (by simp [Memory.wf]) (by omega)) _ _ _ _ hp,
    Memory.read_copyRange _ _ (by omega), if_neg (by omega)]

/-- A page that takes holds the buffer's bytes, or reads blank after an erase. -/
theorem read_programPage_of_page {image buffer : Memory} (page a : Nat) (ha : a / pageSize = page) :
    (programPage image buffer page []).read a = buffer.read a := by
  have hp : pageSize * page ≤ a ∧ a < pageSize * page + pageSize := by
    simp only [pageSize] at *; omega
  unfold programPage
  rw [Memory.writeCells, Memory.read_copyRange _ _ (by omega), if_pos hp]

theorem read_erasePage_of_page {image : Memory} (page a : Nat) (ha : a / pageSize = page) :
    (erasePage image page []).read a = Memory.blankByte := by
  have hp : pageSize * page ≤ a ∧ a < pageSize * page + pageSize := by
    simp only [pageSize] at *; omega
  unfold erasePage
  rw [Memory.writeCells, Memory.read_copyRange _ _ (by omega), if_pos hp]
  rfl

end Sys2Proof.Machine
end

