-- ==== Sys2Proof/Laws/Image.lean ====
section
/-! SUPPORT. The image that a save forms carries its own CRC. -/

namespace Sys2Proof.Machine
open Sys2Proof

/-! ### The CRC (R168) -/

theorem crcBit_lt {c : Nat} (h : c < 65536) : crcBit c < 65536 := by
  unfold crcBit
  split
  · exact Nat.xor_lt_two_pow (n := 16) (Nat.mod_lt _ (by decide)) (by decide)
  · omega

theorem crcByte_lt {c : Nat} (h : c < 65536) (b : Byte) : crcByte c b < 65536 := by
  unfold crcByte
  have hb : 256 * b.toNat < 65536 := by have := b.isLt; omega
  exact crcBit_lt (crcBit_lt (crcBit_lt (crcBit_lt (crcBit_lt (crcBit_lt (crcBit_lt (crcBit_lt
    (Nat.xor_lt_two_pow (n := 16) h hb))))))))

theorem crcOf_lt (bytes : List Byte) : crcOf bytes < 65536 := by
  unfold crcOf
  generalize hc : (0xFFFF : Nat) = c
  have h : c < 65536 := by omega
  clear hc
  induction bytes generalizing c with
  | nil => exact h
  | cons b bs ih => exact ih _ (crcByte_lt h b)

/-- R168: the image that a save forms carries its own CRC. -/
theorem storedCrc_imageOf {lock : Bool} {cfg : LiveConfig} (h : (coveredBytes lock cfg).length = coveredSize) :
    crcOf ((imageOf lock cfg).bytes 0 coveredSize) = storedCrc (imageOf lock cfg) := by
  have hlen : (imageBytes lock cfg).length = 1024 := by simp [imageBytes, h, le16, coveredSize]
  have hb : (imageOf lock cfg).bytes 0 coveredSize = coveredBytes lock cfg := by
    have := Memory.bytes_ofBytes (imageBytes lock cfg) 0 coveredSize (by rw [hlen]; decide)
    unfold imageOf
    rw [this]
    simp [imageBytes, ← h]
  rw [hb]
  have hr : ∀ i, (imageOf lock cfg).read i = (imageBytes lock cfg).getD i Memory.blankByte := by
    intro i
    unfold imageOf
    rw [Memory.read_ofBytes]
    simp
  have h' : (coveredBytes lock cfg).length = 1022 := h
  have hc := crcOf_lt (coveredBytes lock cfg)
  unfold storedCrc
  rw [hr, hr]
  have h0 : (imageBytes lock cfg).getD 1022 Memory.blankByte = byteOf (crcOf (coveredBytes lock cfg) % 256) := by
    simp [imageBytes, le16, List.getD_eq_getElem?_getD, h']
  have h1 : (imageBytes lock cfg).getD 1023 Memory.blankByte = byteOf (crcOf (coveredBytes lock cfg) / 256) := by
    simp [imageBytes, le16, List.getD_eq_getElem?_getD, h']
  rw [h0, h1]
  unfold nat16 byteOf
  simp only [BitVec.toNat_ofNat]
  omega

end Sys2Proof.Machine
end

