-- ==== Sys2Proof/Laws/Settle.lean ====
section
/-! SUPPORT. What the end of a command does, and what a frame and an event come to where the part is at work. -/

namespace Sys2Proof.Machine

open Sys2Proof

/-! ### The end of a command (R135, R141) -/

theorem State.takeEvaluation_of_settled {s : State} (h : s.evaluate = false) (stamp : Nat) :
    s.takeEvaluation stamp = s := by
  unfold State.takeEvaluation
  cases s
  simp_all

/-- With no evaluation event waiting, the end of a command only forms the sleep timer. -/
theorem State.settle_of_settled {s : State} (h : s.evaluate = false) : s.settle = s.formed := by
  unfold State.settle State.formed
  rw [State.takeEvaluation_of_settled h]

theorem State.sleepTimer_restart (s : State) : s.restartSleep.sleepTimer = s.sleepAtZero := by
  have hq : s.restartSleep.quiet = s.quiet := rfl
  have hn : s.restartSleep.now = s.now := rfl
  have hp : s.restartSleep.sbu.power = s.sbu.power := rfl
  unfold State.sleepTimer State.sleepAtZero
  rw [hq, hn, hp]
  split
  · have : (s.restartSleep.sbu.sleepSince).getD s.now = s.now := by
      unfold State.restartSleep
      dsimp only
      cases s.sbu.sleepSince <;> rfl
    rw [this]
  · rfl

/-- The end of a frame whose command brings no evaluation event, with its answer. -/
theorem State.answer_of_settled {s : State} (h : s.evaluate = false) (code : Byte) (r : Result) (data : List Byte) :
    (s.restartSleep.settle).answer code ⟨r, data, 0⟩ = s.answered code r data := by
  have h' : s.restartSleep.evaluate = false := h
  rw [State.settle_of_settled h']
  unfold State.formed
  rw [State.sleepTimer_restart]
  rfl

/-! ### Frames (R149 to R152) -/

/-- A part that is awake takes a frame as it stands. -/
theorem State.Ready.frame {s : State} (h : s.Ready) (code : Byte) (body : State → State × Reply) :
    s.frame code body = ((body s).1.restartSleep.settle).answer code (body s).2 := by
  have hw : s.wakeUp = s := by unfold State.wakeUp; rw [if_neg h.awake]
  unfold State.frame
  rw [if_pos h.powered, hw]

/-- A frame refused, or one that only reads, changes nothing but the sleep timer, the response and the last result. -/
theorem State.Ready.frame_still {s : State} (h : s.Ready) {code : Byte} {body : State → State × Reply} {r : Result}
    {data : List Byte} (hb : body s = (s, ⟨r, data, 0⟩)) : s.frame code body = s.answered code r data := by
  rw [h.frame, hb]
  exact State.answer_of_settled h.settled code r data

/-- A frame whose command makes `t` of the state without an evaluation event. -/
theorem State.Ready.frame_to {s t : State} (h : s.Ready) (ht : t.evaluate = false) {code : Byte}
    {body : State → State × Reply} {r : Result} {data : List Byte} (hb : body s = (t, ⟨r, data, 0⟩)) :
    s.frame code body = t.answered code r data := by
  rw [h.frame, hb]
  exact State.answer_of_settled ht code r data

/-! ### Events -/

theorem State.event_due {s : State} (h : s.powered = true) {due : State → Bool} (hd : due s = true)
    (f : State → State) : s.event due f = (f s).settle := by
  unfold State.event; rw [h, hd]; rfl

theorem State.event_still {s : State} {due : State → Bool} (hd : due s = false) (f : State → State) :
    s.event due f = s := by
  unfold State.event; rw [hd, Bool.and_false]; rfl

theorem State.event_dark {s : State} (h : s.powered = false) (due : State → Bool) (f : State → State) :
    s.event due f = s := by
  unfold State.event; rw [h]; rfl

theorem State.frame_dark {s : State} (h : s.powered = false) (code : Byte) (body : State → State × Reply) :
    s.frame code body = s := by
  unfold State.frame; rw [h]; rfl

/-- An event that brings no evaluation event. -/
theorem State.event_to {s : State} (h : s.powered = true) {due : State → Bool} (hd : due s = true)
    {f : State → State} (hf : (f s).evaluate = false) : s.event due f = (f s).formed := by
  rw [State.event_due h hd, State.settle_of_settled hf]

/-! ### What the end of a command keeps -/

/-- A settle writes the circuits, the record of the evaluation, the sleep timer and the pending set, and clears the
waiting event. -/
theorem State.settle_keeps (s : State) :
    s.settle = { s with
      cc := s.settle.cc
      sbu := { s.sbu with last := s.settle.sbu.last, sleepSince := s.settle.sbu.sleepSince }
      lp := { s.lp with pending := s.settle.lp.pending }
      evaluate := false } := by
  unfold State.settle State.takeEvaluation
  dsimp only
  split
  · unfold State.budgetEvaluation LinkPort.raiseIf
    dsimp only
    split <;> rfl
  · rfl

/-! ### The pull-ups of the senders (R90) -/

/-- Which channel applies its pull-up. -/
theorem State.appliedPullUp_isSome (s : State) (g : ChannelId) :
    (s.appliedPullUp g).isSome = (s.powered && !s.isAsleep && decide ((s.ge[g]).state ≠ .disabled)) := by
  unfold State.appliedPullUp
  split
  · rename_i h; rw [h]; rfl
  · rename_i h; rw [Bool.not_eq_true] at h; rw [h]; rfl

/-- A channel at work applies the pull-up of its range. -/
theorem State.appliedPullUp_on {s : State} {g : ChannelId} (hp : s.powered = true) (ha : s.isAsleep = false)
    (hd : (s.ge[g]).state ≠ .disabled) : s.appliedPullUp g = some (pullUp s.cfg.gauges[g]) := by
  unfold State.appliedPullUp; rw [hp, ha, decide_eq_true hd]; rfl

/-- No pull-up is applied where the channel is disabled, the part asleep or the power off. -/
theorem State.appliedPullUp_off {s : State} {g : ChannelId}
    (h : (s.ge[g]).state = .disabled ∨ s.isAsleep = true ∨ s.powered = false) : s.appliedPullUp g = none := by
  rw [← Option.isSome_eq_false_iff.trans Option.isNone_iff_eq_none, State.appliedPullUp_isSome]
  rcases h with h | h | h
  · rw [decide_eq_false (by rw [h]; exact fun n => n rfl), Bool.and_false]
  · rw [h, Bool.not_true, Bool.and_false, Bool.false_and]
  · rw [h, Bool.false_and, Bool.false_and]

/-- A sender input is pulled up exactly where a channel that applies its pull-up reads it. -/
theorem State.senderPullUp_isSome (s : State) (input : ChannelId) :
    (s.senderPullUp input).isSome = true ↔
      ∃ g : ChannelId, (s.cfg.gauges[g]).sender = input ∧ (s.appliedPullUp g).isSome = true := by
  unfold State.senderPullUp
  rw [List.findSome?_isSome_iff]
  constructor
  · rintro ⟨g, _, h⟩
    by_cases hs : (s.cfg.gauges[g]).sender = input
    · rw [if_pos hs] at h; exact ⟨g, hs, h⟩
    · rw [if_neg hs] at h; cases h
  · rintro ⟨g, hs, h⟩
    exact ⟨g, (by decide : ∀ a : ChannelId, a ∈ allChannels) g, by rw [if_pos hs]; exact h⟩

/-! ### The wire of FSYNC and the bytes of a frame (R81, R149) -/

/-- Without power the wire alone moves. -/
theorem State.wire_dark {s : State} (h : s.powered = false) (low : Bool) :
    s.wire low = { s with fu := { s.fu with wireLow := low } } := by unfold State.wire; rw [h]; rfl

/-- With power a watching clock reads the wire. -/
theorem State.wire_lit {s : State} (h : s.powered = true) (low : Bool) :
    s.wire low = { s with fu := s.fu.wire low } := by unfold State.wire; rw [h]; rfl

/-- Which bytes of a frame are acknowledged. -/
theorem State.acknowledgesByte_iff (s : State) (address : BitVec 7) (k : Nat) :
    s.acknowledgesByte address k = true ↔ s.acknowledges address false = true ∧ k ≤ 260 := by
  unfold State.acknowledgesByte longestFrame; rw [Bool.and_eq_true, decide_eq_true_iff]

/-! ### A measurement's moment (R37) and the blocks of a reset (R45, R86, R105, R145) -/

theorem State.measureReady_iff (c : CircuitId) (s : State) :
    s.measureReady c = true ↔ 0 < (s.cc[c]).applied ∧ timerOut (s.cc[c]).measureDue s.now = true := by
  unfold State.measureReady; rw [Bool.and_eq_true, decide_eq_true_iff]

/-- R37: a circuit at applied level 0 is not measured. -/
theorem State.measureReady_dark {c : CircuitId} {s : State} (h : (s.cc[c]).applied = 0) :
    s.measureReady c = false := by
  unfold State.measureReady; rw [h]; rfl

theorem Circuit.atReset : Circuit.reset.AtReset := by
  unfold Circuit.AtReset Circuit.reset; simp

theorem Flasher.atReset (wireLow : Bool) : (Flasher.reset wireLow).AtReset := by
  unfold Flasher.AtReset Flasher.reset; simp

theorem Channel.atReset (enable : Bool) (now : Nat) : (Channel.reset enable now).AtReset := by
  unfold Channel.AtReset Channel.reset; simp

theorem Supply.atReset (now : Nat) : (Supply.reset now).AtReset now := by
  unfold Supply.AtReset Supply.reset; simp

end Sys2Proof.Machine
end

