-- ==== Sys2Proof/Laws/Table.lean ====
section
/-! SUPPORT. The law of the demand table (Safety.lean): every operation on the table keeps it, and so does every move. -/

namespace Sys2Proof.Machine

open Sys2Proof

/-- A vector with one entry replaced, read at any index. -/
theorem getElem_set_fin {α : Type} {n : Nat} (v : Vector α n) (i j : Fin n) (a : α) :
    (v.set i a)[j] = if i = j then a else v[j] := by
  by_cases h : i = j
  · subst h; simp
  · have : i.val ≠ j.val := fun e => h (Fin.ext e)
    simp [h, this]

/-! ### Counting slots -/

/-- Two tests that agree off one member count alike off it. -/
theorem countP_replace {α : Type} [DecidableEq α] {l : List α} (hn : l.Nodup) {a : α} (ha : a ∈ l) {f g : α → Bool}
    (h : ∀ x, x ≠ a → f x = g x) :
    l.countP f + (if g a then 1 else 0) = l.countP g + (if f a then 1 else 0) := by
  induction l with
  | nil => simp at ha
  | cons b l ih =>
    have hb := List.nodup_cons.1 hn
    rw [List.countP_cons, List.countP_cons]
    by_cases e : b = a
    · subst e
      have hl : l.countP f = l.countP g := List.countP_congr (fun x hx => by
        rw [h x (fun e => hb.1 (e ▸ hx))])
      rw [hl]; omega
    · have ha' : a ∈ l := by
        rcases List.mem_cons.1 ha with e' | e'
        · exact absurd e'.symm e
        · exact e'
      have := ih hb.2 ha'
      rw [h b e]
      omega

theorem DemandTable.length_slotsWhere (dt : DemandTable) (which : Demand → Bool) :
    (dt.slotsWhere which).length = allSlots.countP (fun i => ((dt.slots[i]).demand).any which) := by
  rw [DemandTable.slotsWhere, List.countP_eq_length_filter]

theorem nodup_allSlots : allSlots.Nodup := List.nodup_finRange 64

/-- The number of slots whose demand passes a test, after one slot is rewritten. -/
theorem DemandTable.length_slotsWhere_set (dt dt' : DemandTable) (slot : SlotId) (x : Slot) (which : Demand → Bool)
    (h : dt'.slots = dt.slots.set slot x) :
    (dt'.slotsWhere which).length + (if ((dt.slots[slot]).demand).any which then 1 else 0) =
      (dt.slotsWhere which).length + (if x.demand.any which then 1 else 0) := by
  rw [DemandTable.length_slotsWhere, DemandTable.length_slotsWhere]
  have := countP_replace nodup_allSlots (mem_allSlots slot)
    (f := fun i => ((dt'.slots[i]).demand).any which) (g := fun i => ((dt.slots[i]).demand).any which)
    (fun i hi => by rw [h, getElem_set_fin, if_neg (Ne.symm hi)])
  rw [h, getElem_set_fin, if_pos rfl] at this
  rw [h]
  exact this

/-! ### Ranked insertion (R9) -/

/-- R9, the place of a demand that enters its list: after every demand of higher priority, and immediately before the
first whose priority is equal or lower. -/
theorem DemandTable.rankedInsert_spec (dt : DemandTable) (priority : Nat) (slot : SlotId) (l : List SlotId) :
    ∃ a b, l = a ++ b ∧ dt.rankedInsert priority slot l = a ++ slot :: b ∧
      (∀ x ∈ a, priority < dt.priorityAt x) ∧ (∀ x ∈ b.head?, dt.priorityAt x ≤ priority) := by
  induction l with
  | nil => exact ⟨[], [], rfl, rfl, by simp, by simp⟩
  | cons x xs ih =>
    by_cases h : dt.priorityAt x ≤ priority
    · exact ⟨[], x :: xs, rfl, by simp [DemandTable.rankedInsert, h], by simp, by simpa using h⟩
    · obtain ⟨a, b, h1, h2, h3, h4⟩ := ih
      refine ⟨x :: a, b, by simp [h1], by simp [DemandTable.rankedInsert, h, h2], ?_, h4⟩
      intro y hy
      rcases List.mem_cons.1 hy with rfl | hy
      · omega
      · exact h3 y hy

theorem DemandTable.mem_rankedInsert (dt : DemandTable) (priority : Nat) (slot x : SlotId) (l : List SlotId) :
    x ∈ dt.rankedInsert priority slot l ↔ x = slot ∨ x ∈ l := by
  obtain ⟨a, b, h1, h2, _, _⟩ := dt.rankedInsert_spec priority slot l
  rw [h2, h1]
  simp only [List.mem_append, List.mem_cons]
  tauto

theorem DemandTable.nodup_rankedInsert (dt : DemandTable) (priority : Nat) (slot : SlotId) {l : List SlotId}
    (hn : l.Nodup) (hs : slot ∉ l) : (dt.rankedInsert priority slot l).Nodup := by
  obtain ⟨a, b, h1, h2, _, _⟩ := dt.rankedInsert_spec priority slot l
  rw [h2]
  rw [h1] at hn hs
  have : (slot :: (a ++ b)).Nodup := List.nodup_cons.2 ⟨hs, hn⟩
  exact (List.perm_middle.nodup_iff).2 this

/-- A ranked list stays ranked, whatever table judges it, if the entering slot has the priority it enters with. -/
theorem DemandTable.ranked_rankedInsert (dt dt' : DemandTable) (priority : Nat) (slot : SlotId) {l : List SlotId}
    (hr : l.Pairwise (fun x y => dt.priorityAt y ≤ dt.priorityAt x)) (hs : dt'.priorityAt slot = priority)
    (ho : ∀ x ∈ l, dt'.priorityAt x = dt.priorityAt x) :
    (dt.rankedInsert priority slot l).Pairwise (fun x y => dt'.priorityAt y ≤ dt'.priorityAt x) := by
  obtain ⟨a, b, h1, h2, h3, h4⟩ := dt.rankedInsert_spec priority slot l
  rw [h2]
  subst h1
  have hr' : (a ++ b).Pairwise (fun x y => dt'.priorityAt y ≤ dt'.priorityAt x) :=
    hr.imp_of_mem (fun hx hy h => by rw [ho _ hx, ho _ hy]; exact h)
  rw [List.pairwise_append] at hr' hr ⊢
  have hb : ∀ y ∈ b, dt.priorityAt y ≤ priority := by
    intro y hy
    cases b with
    | nil => simp at hy
    | cons z zs =>
      have hz := h4 z (by simp)
      rcases List.mem_cons.1 hy with rfl | hy
      · exact hz
      · exact Nat.le_trans ((List.pairwise_cons.1 hr.2.1).1 y hy) hz
  refine ⟨hr'.1, List.pairwise_cons.2 ⟨fun y hy => ?_, hr'.2.1⟩, fun x hx y hy => ?_⟩
  · rw [hs, ho y (by simp [hy])]; exact hb y hy
  · rcases List.mem_cons.1 hy with rfl | hy
    · rw [hs, ho x (by simp [hx])]; exact Nat.le_of_lt (h3 x hx)
    · exact hr'.2.2 x hx y hy

/-! ### The law reads slots, lists and host count alone -/

theorem DemandTable.Lawful.congr {a b : DemandTable} (h : a.Lawful) (h1 : b.slots = a.slots) (h2 : b.lists = a.lists)
    (h3 : b.hostCount = a.hostCount) : b.Lawful := by
  have hp : b.priorityAt = a.priorityAt := by funext x; simp only [DemandTable.priorityAt, h1]
  have hw : ∀ f, b.slotsWhere f = a.slotsWhere f := fun f => by simp only [DemandTable.slotsWhere, h1]
  exact ⟨by rw [h1, h2]; exact h.listed, by rw [h2]; exact h.once, by rw [h2, hp]; exact h.ranked,
    by rw [h1]; exact h.tags, by rw [h3, hw]; exact h.counted, by rw [h3]; exact h.quota, by rw [h1]; exact h.keys⟩

theorem DemandTable.reset_lawful : DemandTable.reset.Lawful where
  listed c slot := by
    constructor
    · intro h; simp [DemandTable.reset] at h
    · rintro ⟨d, hd, _⟩; simp [DemandTable.reset] at hd
  once c := by simp [DemandTable.reset]
  ranked c := by simp [DemandTable.reset]
  tags slot := by simp [DemandTable.reset]
  counted := by simp [DemandTable.reset, DemandTable.slotsWhere]
  quota := by simp [DemandTable.reset]
  keys i j a b ha _ _ := by simp [DemandTable.reset] at ha

/-! ### Placing (R5) -/

theorem nextTag_bounds {tag : Nat} (h : tag ≤ 255) : 1 ≤ nextTag tag ∧ nextTag tag ≤ 255 := by
  unfold nextTag; split <;> omega

/-- The priority of a slot after slots are rewritten at one place. -/
theorem DemandTable.priorityAt_set {dt dt' : DemandTable} {slot : SlotId} {x : Slot}
    (h : dt'.slots = dt.slots.set slot x) (y : SlotId) :
    dt'.priorityAt y = if slot = y then (match x.demand with | none => 0 | some d => d.priority)
      else dt.priorityAt y := by
  unfold DemandTable.priorityAt
  rw [h, getElem_set_fin]
  by_cases e : slot = y
  · cases hx : x.demand <;> simp only [e, hx, if_true]
  · simp only [e, if_false]

theorem DemandTable.create_lawful {dt : DemandTable} (h : dt.Lawful) (now : Nat) (slot : SlotId) (p : Placement)
    (hf : (dt.slots[slot]).demand = none) (hq : p.source = .host → dt.hostCount < 20)
    (hk : ∀ (j : SlotId) (b : Demand), (dt.slots[j]).demand = some b → ¬ (p.demand now).sameKey b) :
    (dt.create now slot p).Lawful := by
  have hs : (dt.create now slot p).slots =
      dt.slots.set slot ⟨nextTag (dt.slots[slot]).tag, some (p.demand now)⟩ := rfl
  have hl : (dt.create now slot p).lists =
      dt.lists.set p.circuit (dt.rankedInsert p.priority slot dt.lists[p.circuit]) := rfl
  have hnot : ∀ c : CircuitId, slot ∉ dt.lists[c] := fun c hc => by
    obtain ⟨d, hd, _⟩ := (h.listed c slot).1 hc
    rw [hf] at hd; cases hd
  constructor
  · intro c x
    rw [hl, hs, getElem_set_fin, getElem_set_fin]
    by_cases hx : slot = x
    · subst hx
      simp only [if_true]
      by_cases hc : p.circuit = c
      · subst hc
        simp only [if_true, DemandTable.mem_rankedInsert, true_or, true_iff]
        exact ⟨_, rfl, rfl⟩
      · simp only [hc, if_false]
        refine iff_of_false (hnot c) ?_
        rintro ⟨d, hd, he⟩
        obtain rfl := Option.some.inj hd
        exact hc he
    · simp only [hx, if_false]
      by_cases hc : p.circuit = c
      · subst hc
        simp only [if_true, DemandTable.mem_rankedInsert]
        rw [← h.listed]
        constructor
        · rintro (e | e)
          · exact absurd e.symm hx
          · exact e
        · exact .inr
      · simp only [hc, if_false]
        exact h.listed c x
  · intro c
    rw [hl, getElem_set_fin]
    split
    · exact dt.nodup_rankedInsert _ _ (h.once _) (hnot _)
    · exact h.once c
  · intro c
    have hp : ∀ x, x ≠ slot → (dt.create now slot p).priorityAt x = dt.priorityAt x := fun x hx => by
      rw [DemandTable.priorityAt_set hs, if_neg (Ne.symm hx)]
    rw [hl, getElem_set_fin]
    split
    · refine dt.ranked_rankedInsert _ _ _ (h.ranked _) ?_ (fun x hx => hp x (fun e => hnot _ (e ▸ hx)))
      rw [DemandTable.priorityAt_set hs, if_pos rfl]; rfl
    · exact (h.ranked c).imp_of_mem (fun {x y} hx hy hxy => by
        rw [hp x (fun e => hnot _ (e ▸ hx)), hp y (fun e => hnot _ (e ▸ hy))]; exact hxy)
  · intro x
    rw [hs, getElem_set_fin]
    split
    · have := nextTag_bounds (h.tags slot).1
      exact ⟨this.2, fun _ => this.1⟩
    · exact h.tags x
  · have hc := DemandTable.length_slotsWhere_set dt (dt.create now slot p) slot _ (fun d => decide (d.source = .host)) hs
    rw [hf] at hc
    have hh := h.counted
    simp only [Option.any_none, Option.any_some, Placement.demand] at hc
    have hcnt : (dt.create now slot p).hostCount = if p.source = .host then dt.hostCount + 1 else dt.hostCount := rfl
    rw [hcnt]
    by_cases hsrc : p.source = .host
    · simp [hsrc] at hc ⊢; omega
    · simp [hsrc] at hc ⊢; omega
  · have hcnt : (dt.create now slot p).hostCount = if p.source = .host then dt.hostCount + 1 else dt.hostCount := rfl
    rw [hcnt]
    split
    · have := hq (by assumption); omega
    · exact h.quota
  · intro i j a b ha hb hab
    rw [hs, getElem_set_fin] at ha hb
    by_cases hi : slot = i
    · by_cases hj : slot = j
      · rw [← hi, hj]
      · rw [if_pos hi] at ha
        rw [if_neg hj] at hb
        obtain rfl := Option.some.inj ha
        exact absurd hab (hk j b hb)
    · rw [if_neg hi] at ha
      by_cases hj : slot = j
      · rw [if_pos hj] at hb
        obtain rfl := Option.some.inj hb
        have hba : (p.demand now).sameKey a := by
          obtain ⟨h1, h2, h3⟩ := hab
          refine ⟨h1.symm, by rwa [← h1], fun hk' => (h3 (by rwa [h1])).symm⟩
        exact absurd hba (hk i a ha)
      · rw [if_neg hj] at hb
        exact h.keys i j a b ha hb hab

/-! ### Retiring (R14, R16) -/

theorem DemandTable.remove_lawful {dt : DemandTable} (h : dt.Lawful) (slot : SlotId) : (dt.remove slot).Lawful := by
  unfold DemandTable.remove
  split
  · exact h
  · rename_i d hd
    generalize hdt : ({ dt with
      slots := dt.slots.set slot ⟨(dt.slots[slot]).tag, none⟩
      lists := dt.lists.set d.circuit ((dt.lists[d.circuit]).filter (fun x => decide (x ≠ slot)))
      hostCount := if d.source = .host then dt.hostCount - 1 else dt.hostCount } : DemandTable) = dt'
    have hs : dt'.slots = dt.slots.set slot ⟨(dt.slots[slot]).tag, none⟩ := by rw [← hdt]
    have hl : dt'.lists = dt.lists.set d.circuit ((dt.lists[d.circuit]).filter (fun x => decide (x ≠ slot))) := by
      rw [← hdt]
    have hn : dt'.hostCount = if d.source = .host then dt.hostCount - 1 else dt.hostCount := by rw [← hdt]
    clear hdt
    have hlist : ∀ (c : CircuitId) (x : SlotId), x ∈ dt'.lists[c] ↔ x ∈ dt.lists[c] ∧ x ≠ slot := by
      intro c x
      rw [hl, getElem_set_fin]
      split
      · rename_i e
        subst e
        simp only [List.mem_filter, decide_eq_true_eq]
      · rename_i e
        refine ⟨fun hx => ⟨hx, fun ex => ?_⟩, fun hx => hx.1⟩
        subst ex
        obtain ⟨d', hd', he⟩ := (h.listed c x).1 hx
        rw [hd] at hd'
        obtain rfl := Option.some.inj hd'
        exact e he
    have hsub : ∀ c : CircuitId, (dt'.lists[c]).Sublist dt.lists[c] := by
      intro c
      rw [hl, getElem_set_fin]
      split
      · rename_i e; subst e; exact List.filter_sublist
      · exact List.Sublist.refl _
    have hp : ∀ x, x ≠ slot → dt'.priorityAt x = dt.priorityAt x := fun x hx => by
      rw [DemandTable.priorityAt_set hs, if_neg (Ne.symm hx)]
    constructor
    · intro c x
      rw [hlist, h.listed, hs, getElem_set_fin]
      by_cases hx : slot = x
      · rw [if_pos hx]
        refine iff_of_false (fun e => e.2 hx.symm) ?_
        rintro ⟨d', hd', _⟩
        cases hd'
      · rw [if_neg hx]
        exact ⟨fun e => e.1, fun e => ⟨e, Ne.symm hx⟩⟩
    · exact fun c => (h.once c).sublist (hsub c)
    · exact fun c => ((h.ranked c).sublist (hsub c)).imp_of_mem (fun {x y} hx hy hxy => by
        rw [hp x ((hlist c x).1 hx).2, hp y ((hlist c y).1 hy).2]; exact hxy)
    · intro x
      rw [hs, getElem_set_fin]
      split
      · exact ⟨(h.tags slot).1, by simp⟩
      · exact h.tags x
    · have hc := DemandTable.length_slotsWhere_set dt dt' slot _ (fun d => decide (d.source = .host)) hs
      rw [hd] at hc
      have hh := h.counted
      simp only [Option.any_none, Option.any_some] at hc
      rw [hn]
      by_cases hsrc : d.source = .host
      · simp [hsrc] at hc ⊢; omega
      · simp [hsrc] at hc ⊢; omega
    · rw [hn]
      have := h.quota
      split <;> omega
    · intro i j a b ha hb hab
      rw [hs, getElem_set_fin] at ha hb
      by_cases hi : slot = i
      · rw [if_pos hi] at ha; cases ha
      · by_cases hj : slot = j
        · rw [if_pos hj] at hb; cases hb
        · rw [if_neg hi] at ha
          rw [if_neg hj] at hb
          exact h.keys i j a b ha hb hab

theorem DemandTable.removeAll_lawful {dt : DemandTable} (h : dt.Lawful) (l : List SlotId) :
    (l.foldl DemandTable.remove dt).Lawful := by
  induction l generalizing dt with
  | nil => exact h
  | cons x l ih => exact ih (DemandTable.remove_lawful h x)

/-! ### Rewriting a living demand (R7, R13) -/

theorem DemandTable.rewrite_lawful {dt : DemandTable} (h : dt.Lawful) (slot : SlotId) (old new : Demand) (moves : Bool)
    (hd : (dt.slots[slot]).demand = some old) (hc : new.circuit = old.circuit) (hsrc : new.source = old.source)
    (hp : moves = false → new.priority = old.priority) : (dt.rewrite slot new moves).Lawful := by
  have hs : (dt.rewrite slot new moves).slots = dt.slots.set slot ⟨(dt.slots[slot]).tag, some new⟩ := by
    unfold DemandTable.rewrite; dsimp only; split <;> rfl
  have hn : (dt.rewrite slot new moves).hostCount = dt.hostCount := by
    unfold DemandTable.rewrite; dsimp only; split <;> rfl
  have hpr : ∀ x, x ≠ slot → (dt.rewrite slot new moves).priorityAt x = dt.priorityAt x := fun x hx => by
    rw [DemandTable.priorityAt_set hs, if_neg (Ne.symm hx)]
  have hps : (dt.rewrite slot new moves).priorityAt slot = new.priority := by
    rw [DemandTable.priorityAt_set hs, if_pos rfl]
  have hmem : slot ∈ dt.lists[new.circuit] := (h.listed _ _).2 ⟨old, hd, hc.symm⟩
  -- the lists
  have hl : (moves = false ∧ (dt.rewrite slot new moves).lists = dt.lists) ∨
      ∃ dt1 : DemandTable, (∀ x, x ≠ slot → dt1.priorityAt x = dt.priorityAt x) ∧
        (dt.rewrite slot new moves).lists = dt.lists.set new.circuit
          (dt1.rankedInsert new.priority slot ((dt.lists[new.circuit]).filter (fun x => decide (x ≠ slot)))) := by
    cases moves with
    | false => exact .inl ⟨rfl, rfl⟩
    | true =>
      refine .inr ⟨{ dt with slots := dt.slots.set slot ⟨(dt.slots[slot]).tag, some new⟩ }, fun x hx => ?_, rfl⟩
      rw [DemandTable.priorityAt_set (dt := dt) rfl, if_neg (Ne.symm hx)]
  have hin : ∀ (c : CircuitId) (x : SlotId), x ∈ (dt.rewrite slot new moves).lists[c] ↔ x ∈ dt.lists[c] := by
    intro c x
    rcases hl with ⟨_, hl⟩ | ⟨dt1, _, hl⟩
    · rw [hl]
    · rw [hl, getElem_set_fin]
      split
      · rename_i e
        subst e
        rw [DemandTable.mem_rankedInsert, List.mem_filter, decide_eq_true_eq]
        constructor
        · rintro (rfl | e)
          · exact hmem
          · exact e.1
        · intro hx
          by_cases e : x = slot
          · exact .inl e
          · exact .inr ⟨hx, e⟩
      · rfl
  constructor
  · intro c x
    rw [hin, h.listed, hs, getElem_set_fin]
    by_cases hx : slot = x
    · subst hx
      rw [if_pos rfl]
      constructor
      · rintro ⟨d, h1, h2⟩
        rw [hd] at h1
        obtain rfl := Option.some.inj h1
        exact ⟨new, rfl, hc.trans h2⟩
      · rintro ⟨d, h1, h2⟩
        obtain rfl := Option.some.inj h1
        exact ⟨old, hd, hc.symm.trans h2⟩
    · rw [if_neg hx]
  · intro c
    rcases hl with ⟨_, hl⟩ | ⟨dt1, _, hl⟩
    · rw [hl]; exact h.once c
    · rw [hl, getElem_set_fin]
      split
      · exact dt1.nodup_rankedInsert _ _ ((h.once _).filter _) (by simp)
      · exact h.once c
  · intro c
    rcases hl with ⟨hm, hl⟩ | ⟨dt1, h1, hl⟩
    · have he : ∀ x, (dt.rewrite slot new moves).priorityAt x = dt.priorityAt x := by
        intro x
        by_cases hx : x = slot
        · subst hx
          rw [hps, hp hm]
          simp only [DemandTable.priorityAt, hd]
        · exact hpr x hx
      rw [hl]
      exact (h.ranked c).imp (fun {x y} hxy => by rw [he x, he y]; exact hxy)
    · rw [hl, getElem_set_fin]
      split
      · have hf : ∀ x ∈ (dt.lists[new.circuit]).filter (fun x => decide (x ≠ slot)), x ≠ slot :=
          fun x hx => of_decide_eq_true (List.mem_filter.1 hx).2
        refine dt1.ranked_rankedInsert _ _ _ ?_ hps (fun x hx => by rw [hpr x (hf x hx), h1 x (hf x hx)])
        exact ((h.ranked _).filter _).imp_of_mem (fun {x y} hx hy hxy => by
          rw [h1 x (hf x hx), h1 y (hf y hy)]; exact hxy)
      · rename_i e
        have hns : ∀ x ∈ dt.lists[c], x ≠ slot := fun x hx ex => by
          subst ex
          obtain ⟨d', hd', he⟩ := (h.listed c x).1 hx
          rw [hd] at hd'
          obtain rfl := Option.some.inj hd'
          exact e (hc.trans he)
        exact (h.ranked c).imp_of_mem (fun {x y} hx hy hxy => by
          rw [hpr x (hns x hx), hpr y (hns y hy)]; exact hxy)
  · intro x
    rw [hs, getElem_set_fin]
    split
    · have := h.tags slot
      exact ⟨this.1, fun _ => this.2 (by rw [hd]; rfl)⟩
    · exact h.tags x
  · have hcnt := DemandTable.length_slotsWhere_set dt (dt.rewrite slot new moves) slot _
      (fun d => decide (d.source = .host)) hs
    rw [hd] at hcnt
    simp only [Option.any_some, hsrc] at hcnt
    rw [hn, h.counted]
    omega
  · rw [hn]; exact h.quota
  · have hback : ∀ (i : SlotId) (a : Demand), ((dt.rewrite slot new moves).slots[i]).demand = some a →
        ∃ a', (dt.slots[i]).demand = some a' ∧ a'.source = a.source ∧ a'.circuit = a.circuit := by
      intro i a ha
      rw [hs, getElem_set_fin] at ha
      split at ha
      · rename_i e
        subst e
        obtain rfl := Option.some.inj ha
        exact ⟨old, hd, hsrc.symm, hc.symm⟩
      · exact ⟨a, ha, rfl, rfl⟩
    intro i j a b ha hb hab
    obtain ⟨a', ha', h1, h2⟩ := hback i a ha
    obtain ⟨b', hb', h3, h4⟩ := hback j b hb
    refine h.keys i j a' b' ha' hb' ?_
    obtain ⟨k1, k2, k3⟩ := hab
    exact ⟨by rw [h1, h3]; exact k1, by rw [h1]; exact k2, by rw [h1, h2, h4]; exact k3⟩

end Sys2Proof.Machine
end

