-- ==== Sys2Proof/Laws/TableMoves.lean ====
section
/-! SUPPORT. What the state's own demand operations leave of the table, and that every move keeps the laws of the table
and of the configuration. -/

namespace Sys2Proof.Machine

open Sys2Proof

/-! ### What an operation makes of slots, lists and host count -/

/-- The table without its resolutions: what R1 to R9 speak of. -/
def DemandTable.body (dt : DemandTable) : Vector Slot 64 × Vector (List SlotId) 16 × Nat :=
  (dt.slots, dt.lists, dt.hostCount)

theorem DemandTable.Lawful.of_body {a b : DemandTable} (h : a.Lawful) (e : b.body = a.body) : b.Lawful :=
  h.congr (congrArg (·.1) e) (congrArg (·.2.1) e) (congrArg (·.2.2) e)

/-- A resolution writes the winner and the two levels alone. -/
theorem State.body_resolve (s : State) (listed phase : Bool) (c : CircuitId) :
    (s.resolve listed phase c).dt.body = s.dt.body := by
  unfold State.resolve; split <;> rfl

theorem State.body_foldl {α : Type} (f : State → α → State) (h : ∀ s a, (f s a).dt.body = s.dt.body)
    (l : List α) (s : State) : (l.foldl f s).dt.body = s.dt.body := by
  induction l generalizing s with
  | nil => rfl
  | cons a l ih => exact (ih (f s a)).trans (h s a)

theorem State.body_resolveAll (s : State) (listed phase : Bool) (which : CircuitId → Bool) :
    (s.resolveAll listed phase which).dt.body = s.dt.body :=
  State.body_foldl _ (fun s c => s.body_resolve listed phase c) _ s

theorem State.body_writeDuty (s : State) (c : CircuitId) (d : Nat) : (s.writeDuty c d).dt.body = s.dt.body := by
  unfold State.writeDuty; dsimp only; split <;> rfl

theorem State.body_createAt (s : State) (slot : SlotId) (p : Placement) :
    (s.createAt slot p).dt.body = (s.dt.create s.now slot p).body := State.body_resolve _ _ _ _

theorem DemandTable.remove_eq_of_none {dt : DemandTable} {slot : SlotId} (h : (dt.slots[slot]).demand = none) :
    dt.remove slot = dt := by
  unfold DemandTable.remove; rw [h]

theorem State.body_retireSlot (s : State) (slot : SlotId) :
    (s.retireSlot slot).dt.body = (s.dt.remove slot).body := by
  unfold State.retireSlot
  split
  · rename_i h; rw [DemandTable.remove_eq_of_none h]
  · exact State.body_resolve _ _ _ _

theorem State.body_retireWhere (s : State) (which : Demand → Bool) :
    (s.retireWhere which).dt.body = ((s.dt.slotsWhere which).foldl DemandTable.remove s.dt).body :=
  State.body_resolveAll _ _ _ _

theorem State.body_amendAt (s : State) (slot : SlotId) (d : Demand) (moves : Bool) :
    (s.amendAt slot d moves).dt.body = (s.dt.rewrite slot d moves).body := State.body_resolve _ _ _ _

/-- The record a replacement writes (R7). -/
def Placement.over (p : Placement) (now : Nat) (d : Demand) : Demand :=
  { d with level := p.level, priority := p.priority, expiry := holdExpiryAt now p.hold }

theorem State.body_replaceAt (s : State) (slot : SlotId) (d : Demand) (p : Placement) :
    (s.replaceAt slot d p).dt.body =
      (s.dt.rewrite slot (p.over s.now d) (decide (p.priority ≠ d.priority))).body := by
  unfold State.replaceAt
  rw [State.body_resolve]
  unfold DemandTable.rewrite Placement.over
  by_cases h : p.priority = d.priority
  · simp [h]
  · simp [h]

/-! ### Keys (R7) -/

theorem DemandTable.mem_slotsWhere (dt : DemandTable) (which : Demand → Bool) (slot : SlotId) :
    slot ∈ dt.slotsWhere which ↔ ∃ d, (dt.slots[slot]).demand = some d ∧ which d = true := by
  unfold DemandTable.slotsWhere
  rw [List.mem_filter]
  simp [mem_allSlots, Option.any_eq_true]

theorem DemandTable.keyed_none {dt : DemandTable} {source : Source} {c : CircuitId} (h : dt.keyed source c = none)
    (slot : SlotId) (d : Demand) (hd : (dt.slots[slot]).demand = some d) : d.holdsKey source c = false := by
  by_contra hk
  rw [Bool.not_eq_false] at hk
  have hm : slot ∈ dt.slotsWhere (Demand.holdsKey source c) := (dt.mem_slotsWhere _ _).2 ⟨d, hd, hk⟩
  unfold DemandTable.keyed at h
  split at h
  · rename_i e; rw [e] at hm; cases hm
  · rename_i x xs e
    have hx : x ∈ dt.slotsWhere (Demand.holdsKey source c) := by rw [e]; simp
    obtain ⟨d', hd', _⟩ := (dt.mem_slotsWhere _ _).1 hx
    rw [hd'] at h
    cases h

theorem DemandTable.keyed_some {dt : DemandTable} {source : Source} {c : CircuitId} {slot : SlotId} {d : Demand}
    (h : dt.keyed source c = some (slot, d)) :
    (dt.slots[slot]).demand = some d ∧ d.holdsKey source c = true := by
  unfold DemandTable.keyed at h
  split at h
  · cases h
  · rename_i x xs e
    have hx : x ∈ dt.slotsWhere (Demand.holdsKey source c) := by rw [e]; simp
    obtain ⟨d', hd', hk⟩ := (dt.mem_slotsWhere _ _).1 hx
    rw [hd'] at h
    simp only [Option.map_some, Option.some.injEq, Prod.mk.injEq] at h
    obtain ⟨rfl, rfl⟩ := h
    exact ⟨hd', hk⟩

theorem Demand.holdsKey_iff (source : Source) (c : CircuitId) (d : Demand) :
    d.holdsKey source c = true ↔ d.source = source ∧ (source.keyedByCircuit = true → d.circuit = c) := by
  unfold Demand.holdsKey
  simp only [Bool.and_eq_true, decide_eq_true_eq, Bool.or_eq_true, Bool.not_eq_true']
  by_cases h : source.keyedByCircuit = true <;> simp [h]

/-- Under a lawful table, a slot that holds a key is the only one. -/
theorem DemandTable.Lawful.holder {dt : DemandTable} (h : dt.Lawful) {source : Source} {c : CircuitId}
    (hs : source ≠ .host) {i j : SlotId} {a b : Demand} (ha : (dt.slots[i]).demand = some a)
    (hb : (dt.slots[j]).demand = some b) (ka : a.holdsKey source c = true) (kb : b.holdsKey source c = true) :
    i = j := by
  rw [Demand.holdsKey_iff] at ka kb
  refine h.keys i j a b ha hb ⟨ka.1.trans kb.1.symm, by rw [ka.1]; exact hs, fun hk => ?_⟩
  rw [ka.1] at hk
  rw [ka.2 hk, kb.2 hk]

theorem DemandTable.freeSlot_some {dt : DemandTable} {slot : SlotId} (h : dt.freeSlot = some slot) :
    (dt.slots[slot]).demand = none := by
  have := List.find?_some h
  simpa using this

/-! ### Every move keeps the law of the table -/

theorem DemandTable.fresh_of_keyed_none {dt : DemandTable} {p : Placement} (h : dt.keyed p.source p.circuit = none)
    (now : Nat) (j : SlotId) (b : Demand) (hb : (dt.slots[j]).demand = some b) : ¬ (p.demand now).sameKey b := by
  intro hab
  have hk := DemandTable.keyed_none h j b hb
  have : b.holdsKey p.source p.circuit = true :=
    (Demand.holdsKey_iff _ _ _).2 ⟨hab.1.symm, fun hc => (hab.2.2 hc).symm⟩
  rw [this] at hk
  cases hk

theorem DemandTable.remove_demand (dt : DemandTable) (slot j : SlotId) :
    ((dt.remove slot).slots[j]).demand = if slot = j then none else (dt.slots[j]).demand := by
  unfold DemandTable.remove
  split
  · rename_i h
    split
    · rename_i e; subst e; exact h
    · rfl
  · simp only
    rw [getElem_set_fin]
    split <;> rfl

theorem State.create_lawful {s : State} (h : s.dt.Lawful) (p : Placement) (hs : p.source ≠ .host)
    (hk : ∀ (j : SlotId) (b : Demand), (s.dt.slots[j]).demand = some b → ¬ (p.demand s.now).sameKey b) :
    (s.create p).dt.Lawful := by
  unfold State.create
  split
  · exact h
  · rename_i slot hf
    exact (DemandTable.create_lawful h s.now slot p (DemandTable.freeSlot_some hf) (fun e => absurd e hs) hk).of_body
      (s.body_createAt slot p)

theorem State.placeInternal_lawful {s : State} (h : s.dt.Lawful) (p : Placement) (hs : p.source ≠ .host) :
    (s.placeInternal p).dt.Lawful := by
  unfold State.placeInternal
  split
  · rename_i hk
    exact State.create_lawful h p hs (DemandTable.fresh_of_keyed_none hk s.now)
  · rename_i slot d hk
    obtain ⟨hd, hkey⟩ := DemandTable.keyed_some hk
    have hkey' := (Demand.holdsKey_iff _ _ _).1 hkey
    split
    · exact (DemandTable.rewrite_lawful h slot d (p.over s.now d) _ hd rfl rfl (by simp [Placement.over])).of_body
        (s.body_replaceAt slot d p)
    · have hl : (s.retireSlot slot).dt.Lawful := (DemandTable.remove_lawful h slot).of_body (s.body_retireSlot slot)
      have hsl : (s.retireSlot slot).dt.slots = (s.dt.remove slot).slots := congrArg (·.1) (s.body_retireSlot slot)
      refine State.create_lawful hl p hs (fun j b hb hab => ?_)
      rw [hsl, DemandTable.remove_demand] at hb
      split at hb
      · cases hb
      · rename_i hj
        refine hj (h.holder hs hd hb hkey ?_)
        exact (Demand.holdsKey_iff _ _ _).2 ⟨hab.1.symm, fun hc => (hab.2.2 hc).symm⟩

theorem Move.table {s t : State} (m : Move s t) (h : s.dt.Lawful) : t.dt.Lawful := by
  cases m with
  | flasher => exact h
  | inputs => exact h
  | supply => exact h
  | samples => exact h
  | raise => exact h
  | event => exact h
  | order => exact h
  | channels => exact h
  | duty => exact h.of_body (s.body_writeDuty _ _)
  | resolve => exact h.of_body (s.body_resolve _ _ _)
  | place p hs _ => exact State.placeInternal_lawful h p hs
  | placeHost slot p hf hs hq _ =>
    refine (DemandTable.create_lawful h s.now slot p hf (fun _ => hq) (fun j b _ hab => ?_)).of_body
      (s.body_createAt slot p)
    exact hab.2.1 hs
  | retire slot => exact (DemandTable.remove_lawful h slot).of_body (s.body_retireSlot slot)
  | retireMany which => exact (DemandTable.removeAll_lawful h _).of_body (s.body_retireWhere which)
  | amend slot old new moves hd hc hs hp =>
    exact (DemandTable.rewrite_lawful h slot old new moves hd hc hs hp).of_body (State.body_resolve _ _ _ _)

theorem Work.table {s t : State} (w : Work s t) (h : s.dt.Lawful) : t.dt.Lawful := by
  induction w with
  | refl => exact h
  | step _ m ih => exact m.table ih

/-! ### Every move keeps the law of the configuration (R22) -/

/-- Every living demand stands on a circuit of a kind that takes demands (R22). -/
def State.DemandsStand (s : State) : Prop :=
  ∀ (slot : SlotId) (d : Demand), (s.dt.slots[slot]).demand = some d →
    (s.cfg.circuits[d.circuit]).kind.takesDemands = true

/-- In a lawful table the ranked lists hold the living demands, so the check of R159 on the lists is the one on the
demands. -/
theorem State.demandsStand_iff {s : State} (h : s.dt.Lawful) :
    s.cfg.demandsStand s.occupied = true ↔ s.DemandsStand := by
  unfold LiveConfig.demandsStand State.DemandsStand State.occupied
  rw [List.all_eq_true]
  constructor
  · intro hc slot d hd
    have hm : slot ∈ s.dt.lists[d.circuit] := (h.listed _ _).2 ⟨d, hd, rfl⟩
    have := hc d.circuit (mem_allCircuits _)
    have hne : s.dt.lists[d.circuit] ≠ [] := fun e => by rw [e] at hm; cases hm
    rw [decide_eq_true hne] at this
    simpa using this
  · intro hd c _
    by_cases hc : s.dt.lists[c] = []
    · simp [hc]
    · obtain ⟨slot, hm⟩ := List.exists_mem_of_ne_nil _ hc
      obtain ⟨d, h1, rfl⟩ := (h.listed c slot).1 hm
      have := hd slot d h1
      rw [this]
      simp

theorem State.ConfigLawful.sound {s : State} (h : s.ConfigLawful) : s.ConfigSound := ⟨⟨_, h.1⟩, h.2⟩

/-- A lawful configuration is a sound one under which every demand stands. -/
theorem State.configLawful_iff {s : State} (h : s.dt.Lawful) :
    s.ConfigLawful ↔ s.ConfigSound ∧ s.DemandsStand := by
  constructor
  · intro hc
    exact ⟨hc.sound, (s.demandsStand_iff h).1 (by have := hc.1; simp_all [LiveConfig.lawful])⟩
  · rintro ⟨⟨⟨occ, hl⟩, ha⟩, hd⟩
    refine ⟨?_, ha⟩
    have := (s.demandsStand_iff h).2 hd
    simp_all [LiveConfig.lawful]

theorem DemandTable.rewrite_demand (dt : DemandTable) (slot j : SlotId) (d : Demand) (moves : Bool) :
    ((dt.rewrite slot d moves).slots[j]).demand = if slot = j then some d else (dt.slots[j]).demand := by
  have hs : (dt.rewrite slot d moves).slots = dt.slots.set slot ⟨(dt.slots[slot]).tag, some d⟩ := by
    unfold DemandTable.rewrite; dsimp only; split <;> rfl
  rw [hs, getElem_set_fin]
  split <;> rfl

theorem DemandTable.create_demand (dt : DemandTable) (now : Nat) (slot j : SlotId) (p : Placement) :
    ((dt.create now slot p).slots[j]).demand = if slot = j then some (p.demand now) else (dt.slots[j]).demand := by
  unfold DemandTable.create
  simp only
  rw [getElem_set_fin]
  split <;> rfl

theorem DemandTable.removeAll_demand (l : List SlotId) (dt : DemandTable) (j : SlotId) :
    ((l.foldl DemandTable.remove dt).slots[j]).demand = if j ∈ l then none else (dt.slots[j]).demand := by
  induction l generalizing dt with
  | nil => simp
  | cons x l ih =>
    rw [List.foldl_cons, ih, DemandTable.remove_demand]
    by_cases h1 : j ∈ l
    · simp [h1]
    · by_cases h2 : x = j
      · subst h2; simp
      · simp [h1, h2, Ne.symm h2]

/-- Each demand after a placement, a retirement or a rewriting is one that stood, or stands on a checked circuit. -/
theorem State.DemandsStand.of_old {s t : State} (h : s.DemandsStand) (hc : t.cfg = s.cfg)
    (hd : ∀ (slot : SlotId) (d : Demand), (t.dt.slots[slot]).demand = some d →
      (s.cfg.circuits[d.circuit]).kind.takesDemands = true ∨
        ∃ (i : SlotId) (e : Demand), (s.dt.slots[i]).demand = some e ∧ e.circuit = d.circuit) : t.DemandsStand := by
  intro slot d h1
  rw [hc]
  rcases hd slot d h1 with h2 | ⟨i, e, h2, h3⟩
  · exact h2
  · have := h i e h2
    revert this
    cases d; cases e
    cases h3
    exact id

theorem State.createAt_stand {s : State} (h : s.DemandsStand) (slot : SlotId) (p : Placement)
    (hk : (s.cfg.circuits[p.circuit]).kind.takesDemands = true) : (s.createAt slot p).DemandsStand := by
  have hcfg : (s.createAt slot p).cfg = s.cfg := congrArg (·.1.cfg) (s.aside_createAt slot p)
  refine h.of_old hcfg (fun j d hd => ?_)
  have hs : (s.createAt slot p).dt.slots = (s.dt.create s.now slot p).slots := congrArg (·.1) (s.body_createAt slot p)
  rw [hs, DemandTable.create_demand] at hd
  split at hd
  · obtain rfl := Option.some.inj hd; exact .inl hk
  · exact .inr ⟨j, d, hd, rfl⟩

theorem State.create_stand {s : State} (h : s.DemandsStand) (p : Placement)
    (hk : (s.cfg.circuits[p.circuit]).kind.takesDemands = true) : (s.create p).DemandsStand := by
  unfold State.create
  split
  · exact h
  · exact State.createAt_stand h _ p hk

theorem State.retireSlot_stand {s : State} (h : s.DemandsStand) (slot : SlotId) : (s.retireSlot slot).DemandsStand := by
  have hcfg : (s.retireSlot slot).cfg = s.cfg := congrArg (·.1.cfg) (s.aside_retireSlot slot)
  refine h.of_old hcfg (fun j d hd => ?_)
  have hs : (s.retireSlot slot).dt.slots = (s.dt.remove slot).slots := congrArg (·.1) (s.body_retireSlot slot)
  rw [hs, DemandTable.remove_demand] at hd
  split at hd
  · cases hd
  · exact .inr ⟨j, d, hd, rfl⟩

theorem State.rewrite_stand {s t : State} (h : s.DemandsStand) (slot : SlotId) (old new : Demand) (moves : Bool)
    (hcfg : t.cfg = s.cfg) (hb : t.dt.body = (s.dt.rewrite slot new moves).body)
    (hd : (s.dt.slots[slot]).demand = some old) (hc : new.circuit = old.circuit) : t.DemandsStand := by
  refine h.of_old hcfg (fun j d hj => ?_)
  have hs : t.dt.slots = (s.dt.rewrite slot new moves).slots := congrArg (·.1) hb
  rw [hs, DemandTable.rewrite_demand] at hj
  split at hj
  · obtain rfl := Option.some.inj hj; exact .inr ⟨slot, old, hd, hc.symm⟩
  · exact .inr ⟨j, d, hj, rfl⟩

theorem State.DemandsStand.same {s t : State} (h : s.DemandsStand) (hcfg : t.cfg = s.cfg)
    (hb : t.dt.body = s.dt.body) : t.DemandsStand := by
  refine h.of_old hcfg (fun j d hj => ?_)
  have hs : t.dt.slots = s.dt.slots := congrArg (·.1) hb
  rw [hs] at hj
  exact .inr ⟨j, d, hj, rfl⟩

theorem Move.demandsStand {s t : State} (m : Move s t) (hs : s.ConfigSound) (h : s.DemandsStand) : t.DemandsStand := by
  have hcfg : t.cfg = s.cfg := congrArg Standing.cfg m.standing
  cases m with
  | flasher => exact h
  | inputs => exact h
  | supply => exact h
  | samples => exact h
  | raise => exact h
  | event => exact h
  | order => exact h
  | channels => exact h
  | duty => exact h.same hcfg (s.body_writeDuty _ _)
  | resolve => exact h.same hcfg (s.body_resolve _ _ _)
  | place p _ hk =>
    unfold State.placeInternal
    split
    · exact State.create_stand h p (hk hs)
    · rename_i slot d hkey
      obtain ⟨hd, _⟩ := DemandTable.keyed_some hkey
      split
      · exact State.rewrite_stand h slot d (p.over s.now d) _ (congrArg (·.1.cfg) (s.aside_replaceAt slot d p))
          (s.body_replaceAt slot d p) hd rfl
      · refine State.create_stand (State.retireSlot_stand h slot) p ?_
        have : (s.retireSlot slot).cfg = s.cfg := congrArg (·.1.cfg) (s.aside_retireSlot slot)
        rw [this]; exact hk hs
  | placeHost slot p _ _ _ hk => exact State.createAt_stand h slot p hk
  | retire slot => exact State.retireSlot_stand h slot
  | retireMany which =>
    refine h.of_old hcfg (fun j d hd => ?_)
    have hsl : (s.retireWhere which).dt.slots = ((s.dt.slotsWhere which).foldl DemandTable.remove s.dt).slots :=
      congrArg (·.1) (s.body_retireWhere which)
    rw [hsl, DemandTable.removeAll_demand] at hd
    split at hd
    · cases hd
    · exact .inr ⟨j, d, hd, rfl⟩
  | amend slot old new moves hd hc _ _ =>
    exact State.rewrite_stand h slot old new moves hcfg (State.body_resolve _ _ _ _) hd hc

/-- A chain of moves keeps the law of the configuration, under a lawful table. -/
theorem Work.config {s t : State} (w : Work s t) (hl : s.dt.Lawful) (h : s.ConfigLawful) : t.ConfigLawful := by
  rw [State.configLawful_iff (w.table hl)]
  rw [State.configLawful_iff hl] at h
  refine ⟨w.configSound.2 h.1, ?_⟩
  clear hl
  induction w with
  | refl => exact h.2
  | step w m ih => exact m.demandsStand (w.configSound.2 h.1) ih

end Sys2Proof.Machine
end

