-- ==== Sys2Proof/Laws/Resolve.lean ====
section
/-! SUPPORT. What a resolution and the end of a command leave: the demand frame of each shared operation, and the level
and winner handed on (R10, R11). -/

namespace Sys2Proof.Machine

open Sys2Proof

/-! ### The circuit record -/

/-- What no change of the granted level touches. -/
def Circuit.face (r : Circuit) : Nat × Option Nat × Bool × Bool × Nat × Option Nat :=
  (r.resolved, r.winner, r.flashing, r.lampOut, r.trips, r.lastTrip)

theorem Circuit.face_drive (now level : Nat) (r : Circuit) : (r.drive now level).face = r.face := by
  unfold Circuit.drive; split
  · rfl
  · split <;> rfl

theorem Circuit.face_toOff (now : Nat) (keep : Bool) (r : Circuit) : (r.toOff now keep).face = r.face :=
  r.face_drive now 0

theorem Circuit.face_start (k : CircuitCfg) (fan : FanCfg) (now : Nat) (r : Circuit) :
    (r.start k fan now).face = r.face := by
  unfold Circuit.start
  split
  · split
    · exact r.face_drive now fan.start
    · exact r.face_drive now r.granted
  · split
    · exact r.face_drive now r.granted
    · exact r.face_drive now r.granted

theorem Circuit.face_startIfGranted (k : CircuitCfg) (fan : FanCfg) (now : Nat) (r : Circuit) :
    (r.startIfGranted k fan now).face = r.face := by
  unfold Circuit.startIfGranted; split
  · rfl
  · exact r.face_start k fan now

/-- A change of the granted level leaves the resolved level, the winner, the mode, the lamp-out flag and the trips. -/
theorem Circuit.face_regrant (k : CircuitCfg) (fan : FanCfg) (now : Nat) (phase : Bool) (level : Nat) (r : Circuit) :
    (r.regrant k fan now phase level).face = r.face := by
  unfold Circuit.regrant
  split
  · rfl
  · dsimp only
    split
    · exact Circuit.face_startIfGranted k fan now _
    · split
      · exact Circuit.face_toOff _ _ _
      · exact Circuit.face_drive _ _ _
    · split
      · exact Circuit.face_toOff _ _ _
      · exact Circuit.face_drive _ _ _
    · split
      · exact Circuit.face_toOff _ _ _
      · split
        · rfl
        · exact Circuit.face_drive _ _ _
    · split
      · exact Circuit.face_toOff _ _ _
      · split
        · rfl
        · exact Circuit.face_drive _ _ _
    · rfl
    · rfl

/-- The resolved level handed on is recorded, and the winner stands. -/
theorem Circuit.setResolved_resolved (k : CircuitCfg) (fan : FanCfg) (now : Nat) (phase : Bool) (level : Nat)
    (r : Circuit) :
    (r.setResolved k fan now phase level).resolved = level ∧ (r.setResolved k fan now phase level).winner = r.winner := by
  have h := Circuit.face_regrant k fan now phase level { r with resolved := level }
  have h1 := congrArg (·.1) h
  have h2 := congrArg (·.2.1) h
  unfold Circuit.setResolved
  dsimp only
  split
  · exact ⟨h1, h2⟩
  · split
    · exact ⟨h1, h2⟩
    · split <;> exact ⟨rfl, rfl⟩

theorem Circuit.release_resolved (k : CircuitCfg) (fan : FanCfg) (now : Nat) (r : Circuit) :
    (r.release k fan now).resolved = r.resolved ∧ (r.release k fan now).winner = r.winner := by
  unfold Circuit.release
  split
  · have h := Circuit.face_startIfGranted k fan now
      ({ r with state := .off, trips := 0, lastTrip := none, quietDue := none } : Circuit)
    exact ⟨congrArg (·.1) h, congrArg (·.2.1) h⟩
  · exact ⟨rfl, rfl⟩

/-! ### The demand frame -/

namespace State.DemandFrame

theorem refl (touched : CircuitId → Prop) (s : State) : s.DemandFrame touched s where
  now := rfl
  powered := rfl
  cfg := rfl
  ibu := rfl
  fu := rfl
  ge := rfl
  cs := rfl
  order := rfl
  cuts := rfl
  pending := rfl
  supply := rfl
  window := rfl
  straps := rfl
  status := .inl rfl
  resolutions := fun _ _ => rfl
  essential := fun _ _ _ => rfl
  sheddable := fun _ _ => ⟨rfl, rfl, rfl, rfl, rfl, rfl⟩

theorem trans {touched : CircuitId → Prop} {s t u : State} (h : s.DemandFrame touched t)
    (k : t.DemandFrame touched u) : s.DemandFrame touched u where
  now := k.now.trans h.now
  powered := k.powered.trans h.powered
  cfg := k.cfg.trans h.cfg
  ibu := k.ibu.trans h.ibu
  fu := k.fu.trans h.fu
  ge := k.ge.trans h.ge
  cs := k.cs.trans h.cs
  order := k.order.trans h.order
  cuts := k.cuts.trans h.cuts
  pending := k.pending.trans h.pending
  supply := by rw [k.supply, h.supply]
  window := k.window.trans h.window
  straps := k.straps.trans h.straps
  status := by
    rcases h.status with a | a <;> rcases k.status with b | b <;> rw [b, a]
    · exact .inl rfl
    · exact .inr rfl
    · exact .inr rfl
    · right
      rw [BitVec.or_assoc, BitVec.or_self]
  resolutions := fun c hc => (k.resolutions c hc).trans (h.resolutions c hc)
  essential := fun c hc hk => (k.essential c hc (by rw [h.cfg]; exact hk)).trans (h.essential c hc hk)
  sheddable := fun c hc => by
    obtain ⟨a1, a2, a3, a4, a5, a6⟩ := h.sheddable c hc
    obtain ⟨b1, b2, b3, b4, b5, b6⟩ := k.sheddable c hc
    exact ⟨b1.trans a1, b2.trans a2, b3.trans a3, b4.trans a4, b5.trans a5, b6.trans a6⟩

theorem mono {p q : CircuitId → Prop} {s t : State} (h : s.DemandFrame p t) (hpq : ∀ c, p c → q c) :
    s.DemandFrame q t :=
  { h with
    resolutions := fun c hc => h.resolutions c (fun hp => hc (hpq c hp))
    essential := fun c hc => h.essential c (fun hp => hc (hpq c hp))
    sheddable := fun c hc => h.sheddable c (fun hp => hc (hpq c hp)) }

/-- A change of slots, lists and host count alone. -/
theorem table (touched : CircuitId → Prop) (s : State) (dt : DemandTable) (h : dt.res = s.dt.res) :
    s.DemandFrame touched { s with dt := dt } :=
  { refl touched s with resolutions := fun c _ => by show dt.res[c] = _; rw [h] }

theorem raiseIf_shed (lp : LinkPort) (b : Bool) :
    (lp.raiseIf .shedChanged b).pending = lp.pending ∨
      (lp.raiseIf .shedChanged b).pending = lp.pending ||| Status.shedChanged.mark := by
  cases b
  · exact .inl rfl
  · exact .inr rfl

/-- A resolution touches its own circuit alone. -/
theorem resolve (s : State) (listed phase : Bool) (c : CircuitId) :
    s.DemandFrame (fun x => x = c) (s.resolve listed phase c) := by
  have ha := s.aside_resolve listed phase c
  have hs := State.standing_of_aside ha
  refine
    { now := congrArg Standing.now hs
      powered := congrArg Standing.powered hs
      cfg := congrArg Standing.cfg hs
      ibu := State.ibu_of_aside ha
      fu := State.fu_of_aside ha
      ge := State.ge_of_aside ha
      cs := congrArg Standing.cs hs
      order := State.order_of_aside ha
      cuts := congrArg Standing.cuts hs
      pending := congrArg Standing.pending hs
      supply := by rw [State.sbu_of_aside ha]
      window := congrArg Standing.window hs
      straps := congrArg Standing.straps hs
      status := ?_
      resolutions := fun x hx => ?_
      essential := fun x hx _ => ?_
      sheddable := fun x hx => ?_ }
  · unfold State.resolve; split
    · exact raiseIf_shed _ _
    · exact .inl rfl
  · unfold State.resolve; split
    · exact (getElem_set_fin _ _ _ _).trans (if_neg (Ne.symm hx))
    · rfl
  · unfold State.resolve; split
    · exact (getElem_set_fin _ _ _ _).trans (if_neg (Ne.symm hx))
    · rfl
  · have : (s.resolve listed phase c).cc[x] = s.cc[x] := by
      unfold State.resolve; split
      · exact (getElem_set_fin _ _ _ _).trans (if_neg (Ne.symm hx))
      · rfl
    rw [this]; exact ⟨rfl, rfl, rfl, rfl, rfl, rfl⟩

/-- The end of a command touches no circuit of class 0, and of a sheddable one only what a grant touches. -/
theorem settle (touched : CircuitId → Prop) (s : State) : s.DemandFrame touched s.settle := by
  have hev : ∀ c : CircuitId, (s.settle.cc[c]).face = (s.cc[c]).face ∧
      ((s.cfg.circuits[c]).cls = 0 → s.settle.cc[c] = s.cc[c]) := by
    intro c
    unfold State.settle State.takeEvaluation
    dsimp only
    split
    · unfold State.budgetEvaluation
      simp only [Fin.getElem_fin, Vector.getElem_ofFn, Fin.eta]
      unfold State.evaluated
      dsimp only
      split
      · exact ⟨rfl, fun _ => rfl⟩
      · rename_i h; exact ⟨Circuit.face_regrant _ _ _ _ _ _, fun e => absurd e h⟩
    · exact ⟨rfl, fun _ => rfl⟩
  have hst : s.settle.lp.pending = s.lp.pending ∨
      s.settle.lp.pending = s.lp.pending ||| Status.shedChanged.mark := by
    unfold State.settle State.takeEvaluation
    dsimp only
    split
    · exact raiseIf_shed _ _
    · exact .inl rfl
  have h := s.settle_keeps
  refine
    { now := by rw [h]
      powered := by rw [h]
      cfg := by rw [h]
      ibu := by rw [h]
      fu := by rw [h]
      ge := by rw [h]
      cs := by rw [h]
      order := by rw [h]
      cuts := by rw [h]
      pending := by rw [h]
      supply := by rw [h]
      window := by rw [h]
      straps := by rw [h]
      status := hst
      resolutions := fun c _ => by rw [h]
      essential := fun c _ hk => (hev c).2 hk
      sheddable := fun c _ => ?_ }
  have hf := (hev c).1
  exact ⟨congrArg (·.1) hf, congrArg (·.2.1) hf, congrArg (·.2.2.1) hf, congrArg (·.2.2.2.1) hf,
    congrArg (·.2.2.2.2.1) hf, congrArg (·.2.2.2.2.2) hf⟩

theorem restartSleep (touched : CircuitId → Prop) (s : State) : s.DemandFrame touched s.restartSleep :=
  { refl touched s with supply := rfl }

theorem answer (touched : CircuitId → Prop) (s : State) (code : Byte) (reply : Reply) :
    s.DemandFrame touched (s.answer code reply) :=
  { refl touched s with window := rfl, straps := rfl, status := .inl rfl }

/-- A frame whose body has the demand frame. -/
theorem ofFrame {touched : CircuitId → Prop} {s : State} (h : s.Ready) {code : Byte} {body : State → State × Reply}
    (hb : s.DemandFrame touched (body s).1) : s.DemandFrame touched (s.frame code body) := by
  rw [h.frame]
  exact ((hb.trans (restartSleep _ _)).trans (settle _ _)).trans (answer _ _ _ _)

end State.DemandFrame

/-! ### Handed on (R11) -/

/-- The end of a frame leaves the Demand Table. -/
theorem State.Ready.frame_table {s : State} (h : s.Ready) (code : Byte) (body : State → State × Reply) :
    (s.frame code body).dt = (body s).1.dt ∧ (s.frame code body).cfg = (body s).1.cfg ∧
      (s.frame code body).fu = (body s).1.fu := by
  have k := State.DemandFrame.settle (fun _ => False) (body s).1.restartSleep
  rw [h.frame]
  refine ⟨?_, k.cfg, k.fu⟩
  show ((body s).1.restartSleep.settle).dt = _
  rw [State.settle_keeps]; rfl

/-- A resolution records what R10 gives, where the Demand Table resolves the circuit. -/
theorem State.resolve_res (s : State) (listed phase : Bool) (c : CircuitId)
    (hk : (s.cfg.circuits[c]).kind.takesDemands = true) :
    (s.resolve listed phase c).dt.res[c] = s.resolution c := by
  unfold State.resolve
  rw [if_pos hk]
  exact (getElem_set_fin _ _ _ _).trans (if_pos rfl)

/-- What R10 gives reads the slots, the lists, the lanes' levels and the clock. -/
theorem State.resolution_congr {s t : State} (hb : t.dt.body = s.dt.body) (hc : t.cfg = s.cfg) (hf : t.fu = s.fu)
    (c : CircuitId) : t.resolution c = s.resolution c := by
  have h1 : t.dt.slots = s.dt.slots := congrArg (·.1) hb
  have h2 : t.dt.lists = s.dt.lists := congrArg (·.2.1) hb
  have hw : t.dt.winner c = s.dt.winner c := by unfold DemandTable.winner; rw [h1, h2]
  unfold State.resolution
  rw [hw, h1, hc, hf]

/-- A resolution keeps the circuit record in step with the Demand Table. -/
theorem State.resolve_inStep {s : State} (c : CircuitId) (h : s.InStep c) (listed phase : Bool) :
    (s.resolve listed phase c).InStep c := by
  unfold State.resolve
  split
  · have hr : ∀ r : Circuit, r.winner = (s.resolution c).winner →
        r.resolved = recordLevel s.cfg.circuits[c] s.cfg.fan (s.resolution c).resolved →
        (if listed && decide ((s.resolution c).requested = 0) then r.release s.cfg.circuits[c] s.cfg.fan s.now
          else r).winner = (s.resolution c).winner ∧
        (if listed && decide ((s.resolution c).requested = 0) then r.release s.cfg.circuits[c] s.cfg.fan s.now
          else r).resolved = recordLevel s.cfg.circuits[c] s.cfg.fan (s.resolution c).resolved := by
      intro r hw hl
      split
      · exact ⟨(Circuit.release_resolved _ _ _ r).2.trans hw, (Circuit.release_resolved _ _ _ r).1.trans hl⟩
      · exact ⟨hw, hl⟩
    have hh : (s.handOn c listed phase (s.resolution c)).winner = (s.resolution c).winner ∧
        (s.handOn c listed phase (s.resolution c)).resolved =
          recordLevel s.cfg.circuits[c] s.cfg.fan (s.resolution c).resolved := by
      obtain ⟨r1, hr1⟩ : ∃ r1, r1 = if (s.resolution c).winner = (s.dt.res[c]).winner then s.cc[c]
          else (s.cc[c]).setWinner (s.resolution c).winner (s.winnerFollows c) := ⟨_, rfl⟩
      have hw : r1.winner = (s.resolution c).winner := by
        rw [hr1]; split
        · rename_i e; rw [h.winner, e]
        · rfl
      have hl : r1.resolved = (s.cc[c]).resolved := by rw [hr1]; split <;> rfl
      unfold State.handOn
      dsimp only
      rw [← hr1]
      by_cases e : (s.resolution c).resolved = (s.dt.res[c]).resolved ∨
          recordLevel s.cfg.circuits[c] s.cfg.fan (s.resolution c).resolved = r1.resolved
      · rw [if_pos e]
        refine hr _ hw ?_
        rcases e with e | e
        · rw [hl, h.resolved, e]
        · exact e.symm
      · rw [if_neg e]
        exact hr _ ((Circuit.setResolved_resolved _ _ _ _ _ _).2.trans hw) (Circuit.setResolved_resolved _ _ _ _ _ _).1
    constructor
    · show ((s.cc.set c _)[c]).resolved = recordLevel _ _ ((s.dt.res.set c _)[c]).resolved
      rw [getElem_set_fin, getElem_set_fin, if_pos rfl, if_pos rfl]
      exact hh.2
    · show ((s.cc.set c _)[c]).winner = ((s.dt.res.set c _)[c]).winner
      rw [getElem_set_fin, getElem_set_fin, if_pos rfl, if_pos rfl]
      exact hh.1
  · exact h

/-- The end of a frame keeps what stands in step. -/
theorem State.InStep.frame {s : State} (h : s.Ready) {c : CircuitId} {code : Byte} {body : State → State × Reply}
    (hb : (body s).1.InStep c) : (s.frame code body).InStep c := by
  have k := State.DemandFrame.settle (fun _ => False) (body s).1.restartSleep
  have ht := (h.frame_table code body).1
  have hcfg := (h.frame_table code body).2.1
  obtain ⟨h1, h2, _⟩ := k.sheddable c (fun e => e)
  have hcc : (s.frame code body).cc = (body s).1.restartSleep.settle.cc := by rw [h.frame]; rfl
  constructor
  · rw [hcc, ht, hcfg, h1]; exact hb.resolved
  · rw [hcc, ht, h2]; exact hb.winner

end Sys2Proof.Machine
end

