-- ==== Sys2Proof/Laws/Taken.lean ====
section
/-! SUPPORT. What the decoder of each table entry takes, and what the cross-table checks pass, are what Safety.lean spells
from the rules (R158, R159). -/

namespace Sys2Proof.Machine

open Sys2Proof

/-- A checked value is answered exactly when the test holds, and is the value. -/
theorem checked_eq_some {α : Type} (ok : Bool) (v w : α) : checked ok v = some w ↔ ok = true ∧ v = w := by
  unfold checked; cases ok <;> simp

theorem within_eq_true (lo hi v : Nat) : within lo hi v = true ↔ lo ≤ v ∧ v ≤ hi := by
  simp [within]

theorem circuitOf_eq_some (b : Byte) (c : CircuitId) : circuitOf b = some c ↔ b.toNat = c.val := by
  unfold circuitOf
  split
  · simp [Fin.ext_iff]
  · simp; omega

theorem channelOf_eq_some (b : Byte) (g : ChannelId) : channelOf b = some g ↔ b.toNat = g.val := by
  unfold channelOf
  split
  · simp [Fin.ext_iff]
  · simp; omega

theorem finOf_eq_some (n v : Nat) (i : Fin n) : finOf n v = some i ↔ v = i.val := by
  unfold finOf
  split
  · simp [Fin.ext_iff]
  · simp; omega

theorem yesNoOf_eq_some (b : Byte) (v : Bool) : yesNoOf b = some v ↔ b = if v then 1 else 0 := by
  revert b v; decide

theorem kindOf_eq_some (b : Byte) (k : Kind) : kindOf b = some k ↔ b = (match k with
    | .none => 0 | .filament => 1 | .led => 2 | .motor => 3 | .gauge => 4) := by
  cases k <;> revert b <;> decide

theorem tickModeOf_eq_some (b : Byte) (k : TickMode) : tickModeOf b = some k ↔ b = (match k with
    | .off => 0 | .pulse => 1 | .follow => 2) := by
  cases k <;> revert b <;> decide

theorem systemOf_eq_some (b : Byte) (k : SystemVoltage) : systemOf b = some k ↔ b = (match k with
    | .six => 6 | .twelve => 12) := by
  cases k <;> revert b <;> decide

theorem laneSetOf_eq_some (b : Byte) (l : LaneSet) : laneSetOf b = some l ↔ b = l.shown := by
  cases l <;> revert b <;> decide

theorem isFF_eq (b : Byte) : isFF b = true ↔ b = 0xFF := by simp [isFF]

theorem orDefault_taken (dflt : Nat) (b : Byte) : DefaultTaken dflt b (orDefault dflt b) := by
  unfold DefaultTaken orDefault isFF; simp

theorem DefaultTaken.eq {dflt n : Nat} {b : Byte} (h : DefaultTaken dflt b n) : n = orDefault dflt b := by
  unfold DefaultTaken at h; unfold orDefault isFF; simpa using h

theorem Point.taken_iff (m : Nat) (p : Point) (bytes : List Byte) :
    Point.ofBytes m bytes = some p ↔ p.Taken m bytes := by
  constructor
  · intro h
    unfold Point.ofBytes at h
    split at h
    · simp only [checked_eq_some, Bool.and_eq_true, within_eq_true] at h
      obtain ⟨h1, rfl⟩ := h
      exact ⟨_, _, _, _, rfl, rfl, h1.1.2, rfl, h1.2.2⟩
    · cases h
  · rintro ⟨x0, x1, y0, y1, rfl, hx, hx', hy, hy'⟩
    cases p
    simp only at hx hy hx' hy'
    simp [Point.ofBytes, checked_eq_some, within_eq_true, nat16]
    omega

theorem CircuitCfg.taken_iff (k : CircuitCfg) (bytes : List Byte) :
    CircuitCfg.ofBytes bytes = some k ↔ k.Taken bytes := by
  constructor
  · intro h
    unfold CircuitCfg.ofBytes at h
    split at h
    · simp only [Option.bind_eq_bind, Option.bind_eq_some_iff, checked_eq_some, within_eq_true, kindOf_eq_some] at h
      obtain ⟨kind, hk, rated, ⟨hr, rfl⟩, trip, ⟨ht, rfl⟩, cls, ⟨hc, rfl⟩, factor, hf, time, htm, lamp, hl, retry, hre,
        test, hte, hp, rfl⟩ := h
      simp only [takeLampOut, takeRetryLimit, checked_eq_some, within_eq_true, Bool.and_eq_true, decide_eq_true_eq] at hl hre hp
      obtain ⟨hl, rfl⟩ := hl
      obtain ⟨hre, rfl⟩ := hre
      subst hp
      refine ⟨_, _, _, _, _, _, _, _, _, _, _, rfl, rfl, hr.2, rfl, ht.2, hk, rfl, hc.2, ?_, ?_, orDefault_taken _ _, hl.1.1,
        hl.1.2, hl.2, orDefault_taken _ _, hre.2, ?_, ?_⟩
      · rintro rfl
        simp [takeInrushFactor, takeInrushTime, Kind.forcesInrush, checked_eq_some, within_eq_true] at hf htm
        obtain ⟨hf, rfl⟩ := hf
        obtain ⟨htm, rfl⟩ := htm
        refine ⟨orDefault_taken _ _, hf.1, hf.2, orDefault_taken _ _, ?_⟩
        rcases htm with h | h
        · rw [isFF_eq] at h
          dsimp only [orDefault]
          rw [(isFF_eq _).mpr h]
          exact ⟨by simp, by simp⟩
        · dsimp only [orDefault]
          split
          · decide
          · exact h
      · intro h
        dsimp only at h
        simp [takeInrushFactor, takeInrushTime, Kind.forcesInrush, h] at hf htm
        exact ⟨hf.symm, htm.symm⟩
      · intro h
        dsimp only at h
        rcases h with rfl | rfl <;> simpa [takeLampTest, Kind.forcesLampTest, Kind.isLamp, yesNoOf_eq_some] using hte
      · intro h h'
        dsimp only at h h'
        revert hte
        cases kind <;> simp_all [takeLampTest, Kind.forcesLampTest, Kind.isLamp]
    · cases h
  · rintro ⟨r0, r1, t0, t1, kd, cl, fa, ti, lo, rl, lt, rfl, hr, hr', ht, ht', hk, hc, hc', h1, h2, hl, hl1, hl2, hl3, hre,
      hre', h3, h4⟩
    have el := hl.eq
    have er := hre.eq
    obtain ⟨rated, trip, kind, cls, factor, time, lamp, retry, test⟩ := k
    dsimp only at *
    have hk' := (kindOf_eq_some kd kind).mpr hk
    have hf : takeInrushFactor kind fa = some factor ∧ takeInrushTime kind ti = some time := by
      by_cases hki : kind = .filament
      · obtain ⟨f1, f2, f3, f4, f5, f6⟩ := h1 hki
        have e1 := f1.eq
        have e2 := f4.eq
        subst hki e1 e2
        simp [takeInrushFactor, takeInrushTime, Kind.forcesInrush, checked_eq_some, within_eq_true, f2, f3]
        unfold orDefault at f5 f6
        cases hb : isFF ti <;> simp_all
      · obtain ⟨e1, e2⟩ := h2 hki
        simp [takeInrushFactor, takeInrushTime, Kind.forcesInrush, hki, e1, e2]
    have hte : takeLampTest kind lt = some test := by
      cases kind <;> simp_all [takeLampTest, Kind.forcesLampTest, Kind.isLamp, yesNoOf_eq_some]
    simp only [CircuitCfg.ofBytes, Option.bind_eq_bind, Option.bind_eq_some_iff, checked_eq_some, within_eq_true]
    refine ⟨kind, hk', rated, ⟨⟨Nat.zero_le _, ?_⟩, ?_⟩, trip, ⟨⟨Nat.zero_le _, ?_⟩, ?_⟩, cls, ⟨⟨Nat.zero_le _, ?_⟩, ?_⟩,
      factor, hf.1, time, hf.2, lamp, ?_, retry, ?_, test, hte, by simp, rfl⟩
    · rw [nat16, ← hr]; exact hr'
    · exact hr.symm
    · rw [nat16, ← ht]; exact ht'
    · exact ht.symm
    · omega
    · exact hc.symm
    · simp [takeLampOut, checked_eq_some, within_eq_true, ← el]; omega
    · simp [takeRetryLimit, checked_eq_some, within_eq_true, ← er]; omega

theorem BindingCfg.taken_iff (b : BindingCfg) (bytes : List Byte) :
    BindingCfg.ofBytes bytes = some b ↔ b.Taken bytes := by
  have act : ∀ (ac tg : Byte) (a : Action), actionOf ac tg = some a ↔ (match a with
      | .whileOn c => ac = 0 ∧ tg.toNat = c.val
      | .toggle c => ac = 1 ∧ tg.toNat = c.val
      | .timed c => ac = 2 ∧ tg.toNat = c.val
      | .flashWhile lanes => ac = 3 ∧ tg = lanes.shown
      | .flashToggle lanes => ac = 4 ∧ tg = lanes.shown) := by
    intro ac tg a
    have e : ∀ n : Nat, n < 256 → (ac = BitVec.ofNat 8 n ↔ ac.toNat = n) := by
      intro n hn
      rw [BitVec.toNat_eq, BitVec.toNat_ofNat, Nat.mod_eq_of_lt (by simpa using hn)]
    have e0 := e 0 (by decide); have e1 := e 1 (by decide); have e2 := e 2 (by decide)
    have e3 := e 3 (by decide); have e4 := e 4 (by decide)
    unfold actionOf
    split <;> rename_i h <;> cases a <;>
      simp_all [Option.map_eq_some_iff, circuitOf_eq_some, laneSetOf_eq_some]
  have sec : ∀ (n : Nat) (o : Option InputId), secondOf n = some o ↔ (match o with
      | none => n = 15
      | some i => n = i.val) := by
    intro n o
    unfold secondOf
    cases o with
    | none => split <;> simp_all
    | some i =>
      split
      · simp; omega
      · simp [finOf_eq_some]
  constructor
  · intro h
    unfold BindingCfg.ofBytes at h
    split at h
    · simp only [Option.bind_eq_bind, Option.bind_eq_some_iff, checked_eq_some, finOf_eq_some, Option.some.injEq] at h
      obtain ⟨p, hp, o, ho, a, ha, hold, ⟨hh, rfl⟩, rfl⟩ := h
      exact ⟨_, _, _, _, _, _, _, _, rfl, rfl, rfl, rfl, rfl, rfl, hp.symm, (sec _ _).mp ho, (act _ _ _).mp ha, rfl, rfl,
        Nat.pos_of_ne_zero (by simpa using hh)⟩
    · cases h
  · rintro ⟨fl, io, ac, tg, l0, l1, h0, h1, rfl, e1, e2, e3, e4, e5, hp, ho, ha, hl, hh, hh'⟩
    obtain ⟨en, pr, pa, se, sa, a, le, pri, ho', ga⟩ := b
    dsimp only at *
    simp only [BindingCfg.ofBytes, Option.bind_eq_bind, Option.bind_eq_some_iff, checked_eq_some, finOf_eq_some]
    refine ⟨pr, hp.symm, se, (sec _ _).mpr ho, a, (act _ _ _).mpr ha, ho', ⟨?_, hh.symm⟩, ?_⟩
    · simp [nat16, ← hh]; omega
    · simp only [flagBit, ← e1, ← e2, ← e3, ← e4, ← e5, nat16, ← hl]

theorem LaneCfg.taken_iff (l : LaneCfg) (bytes : List Byte) : LaneCfg.ofBytes bytes = some l ↔ l.Taken bytes := by
  have mem : ∀ (codes : List Byte) (ms : List CircuitId),
      codes.mapM circuitOf = some ms ↔ ms.map Fin.val = codes.map BitVec.toNat := by
    intro codes
    induction codes with
    | nil => intro ms; cases ms <;> simp
    | cons b rest ih =>
      intro ms
      simp only [List.mapM_cons, Option.bind_eq_bind, Option.bind_eq_some_iff, circuitOf_eq_some, Option.pure_def,
        Option.some.injEq, List.map_cons]
      constructor
      · rintro ⟨c, hc, t, ht, rfl⟩
        simp [hc, (ih t).mp ht]
      · intro h
        cases ms with
        | nil => simp at h
        | cons c t =>
          simp only [List.map_cons, List.cons.injEq] at h
          exact ⟨c, h.1.symm, t, (ih t).mpr h.2, rfl⟩
  constructor
  · intro h
    unfold LaneCfg.ofBytes at h
    split at h
    · simp only [Option.bind_eq_bind, Option.bind_eq_some_iff, checked_eq_some, within_eq_true, takeMembers, mem,
        Option.some.injEq, decide_eq_true_eq] at h
      obtain ⟨n, ⟨hn, rfl⟩, ms, ⟨ms', hm, hnd, rfl⟩, p, ⟨hp, rfl⟩, rfl⟩ := h
      have hlen := congrArg List.length hm
      simp only [List.length_map, List.length_take, List.length_cons, List.length_nil] at hlen
      rw [Nat.min_eq_left (by omega)] at hlen
      refine ⟨_, _, _, _, _, _, _, _, rfl, hlen.symm, ?_, ?_, hnd, rfl, rfl, hp.2⟩
      · dsimp only; omega
      · dsimp only; rw [hlen]; exact hm
    · cases h
  · rintro ⟨n, m1, m2, m3, m4, l0, l1, p, rfl, hn, hn', hm, hnd, hl, hp, hp'⟩
    obtain ⟨ms, le, pr⟩ := l
    dsimp only at *
    simp only [LaneCfg.ofBytes, Option.bind_eq_bind, Option.bind_eq_some_iff, checked_eq_some, within_eq_true, takeMembers,
      mem, decide_eq_true_eq]
    refine ⟨ms.length, ⟨⟨Nat.zero_le _, by omega⟩, hn⟩, ms, ⟨ms, hm, hnd, rfl⟩, pr, ⟨⟨Nat.zero_le _, by omega⟩, hp.symm⟩, ?_⟩
    rw [hl]; rfl

theorem flashTime_taken (v n : Nat) : flashTime v = n ↔ FlashTimeTaken v n := by
  unfold flashTime FlashTimeTaken
  omega

theorem FlashCfg.taken_iff (f : FlashCfg) (bytes : List Byte) : FlashCfg.ofBytes bytes = some f ↔ f.Taken bytes := by
  constructor
  · intro h
    unfold FlashCfg.ofBytes at h
    split at h
    · simp only [Option.bind_eq_bind, Option.bind_eq_some_iff, yesNoOf_eq_some, tickModeOf_eq_some,
        Option.some.injEq] at h
      obtain ⟨fa, hf, sy, hs, ti, ht, rfl⟩ := h
      exact ⟨_, _, _, _, _, _, _, rfl, (flashTime_taken _ _).mp rfl, (flashTime_taken _ _).mp rfl, hf, hs, ht⟩
    · cases h
  · rintro ⟨n0, n1, f0, f1, fa, sy, ti, rfl, h1, h2, hf, hs, ht⟩
    obtain ⟨on, off, fast, sync, tick⟩ := f
    dsimp only at *
    simp only [FlashCfg.ofBytes, Option.bind_eq_bind, Option.bind_eq_some_iff, yesNoOf_eq_some, tickModeOf_eq_some]
    refine ⟨fast, hf, sync, hs, tick, ht, ?_⟩
    rw [nat16, nat16, (flashTime_taken _ _).mpr h1, (flashTime_taken _ _).mpr h2]

theorem GaugeCfg.taken_iff (g : GaugeCfg) (bytes : List Byte) : GaugeCfg.ofBytes bytes = some g ↔ g.Taken bytes := by
  constructor
  · intro h
    unfold GaugeCfg.ofBytes at h
    split at h
    · simp only [Option.bind_eq_bind, Option.bind_eq_some_iff, checked_eq_some, within_eq_true, channelOf_eq_some,
        circuitOf_eq_some, Option.some.injEq, decide_eq_true_eq] at h
      obtain ⟨fl, ⟨h1, rfl⟩, se, h2, dr, h3, o, ⟨h4, rfl⟩, sh, ⟨h5, rfl⟩, v, ⟨h6, rfl⟩, sp, ⟨h7, rfl⟩, dp, ⟨h8, rfl⟩, w,
        ⟨h9, rfl⟩, hy, ⟨h10, rfl⟩, wc, h11, wp, ⟨h12, rfl⟩, rfl⟩ := h
      exact ⟨_, _, _, _, _, _, _, _, _, _, _, _, _, _, _, _, _, _, rfl, h1, rfl, rfl, rfl, rfl, h2.symm, h3.symm, rfl, h4.1,
        h4.2, rfl, h5.2, rfl, rfl, h6.1, h6.2, rfl, rfl, h7.1, h7.2, rfl, h8.1, h8.2, rfl, h9.2, rfl, h10.2, rfl, h11.symm,
        rfl, h12.2⟩
    · cases h
  · rintro ⟨fl, se, dr, o0, o1, sh, da, v0, v1, ho, sp, dp, w0, w1, hy, de, wc, wp, rfl, h1, e1, e2, e3, e4, h2, h3, e5, h4,
      h4', e6, h5, e7, e8, h6, h6', e9, e10, h7, h7', e11, h8, h8', e12, h9, e13, h10, e14, h11, e15, h12⟩
    obtain ⟨_, _, _, _, _, _, _, _, _, _, _, _, _, _, _, _, _, _⟩ := g
    dsimp only at *
    subst e1 e2 e3 e4 e5 e6 e7 e8 e9 e10 e11 e12 e13 e14 e15
    simp only [GaugeCfg.ofBytes, Option.bind_eq_bind, Option.bind_eq_some_iff, checked_eq_some, within_eq_true,
      channelOf_eq_some, circuitOf_eq_some, decide_eq_true_eq]
    exact ⟨_, ⟨h1, rfl⟩, _, h2.symm, _, h3.symm, _, ⟨⟨h4, h4'⟩, rfl⟩, _, ⟨⟨Nat.zero_le _, h5⟩, rfl⟩, _, ⟨⟨h6, h6'⟩, rfl⟩, _,
      ⟨⟨h7, h7'⟩, rfl⟩, _, ⟨⟨h8, h8'⟩, rfl⟩, _, ⟨⟨Nat.zero_le _, h9⟩, rfl⟩, _, ⟨⟨Nat.zero_le _, h10⟩, rfl⟩, _, h11.symm, _,
      ⟨⟨Nat.zero_le _, h12⟩, rfl⟩, rfl⟩

theorem BudgetCfg.taken_iff (b : BudgetCfg) (bytes : List Byte) :
    BudgetCfg.ofBytes bytes = some b ↔ b.Taken bytes := by
  have lam : ∀ (x : Byte) (o : Option CircuitId), lampCircuitOf x = some o ↔ (match o with
      | none => x = 0xFF
      | some c => x.toNat = c.val) := by
    intro x o
    unfold lampCircuitOf
    cases o with
    | none => split <;> rename_i h <;> simp_all [isFF]
    | some c =>
      split
      · rename_i h
        rw [isFF_eq] at h
        subst h
        simp
        omega
      · simp [circuitOf_eq_some]
  have thr : ∀ v : Nat, chargeThrOk v = true ↔ v = 0 ∨ 1000 ≤ v ∧ v ≤ 16000 := by
    intro v; simp [chargeThrOk, within]
  constructor
  · intro h
    unfold BudgetCfg.ofBytes at h
    split at h
    · simp only [Option.bind_eq_bind, Option.bind_eq_some_iff, checked_eq_some, within_eq_true, systemOf_eq_some, lam,
        thr, decide_eq_true_eq] at h
      obtain ⟨sy, h1, d, ⟨h2, rfl⟩, ba, ⟨h3, rfl⟩, pa, ⟨h4, rfl⟩, lo, ⟨h5, rfl⟩, cr, ⟨h6, rfl⟩, der, ⟨h7, rfl⟩, ma,
        ⟨h8, rfl⟩, de, ⟨h9, rfl⟩, th, ⟨h10, rfl⟩, la, h11, h12, rfl⟩ := h
      exact ⟨_, _, _, _, _, _, _, _, _, _, _, _, _, _, _, _, _, _, _, _, rfl, h1, rfl, h2.2, rfl, h3.2, rfl, h4.2, rfl, h5.1,
        h5.2, rfl, h6.1, h6.2, rfl, h7.2, rfl, h8.2, rfl, h9.2, rfl, h10, h11, h12⟩
    · cases h
  · rintro ⟨sv, d0, d1, b0, b1, p0, p1, l0, l1, c0, c1, e0, e1, m0, m1, y0, y1, t0, t1, lp, rfl, h1, e2, h2, e3, h3, e4, h4,
      e5, h5, h5', e6, h6, h6', e7, h7, e8, h8, e9, h9, e10, h10, h11, h12⟩
    obtain ⟨_, _, _, _, _, _, _, _, _, _, _⟩ := b
    dsimp only at *
    subst e2 e3 e4 e5 e6 e7 e8 e9 e10
    simp only [BudgetCfg.ofBytes, Option.bind_eq_bind, Option.bind_eq_some_iff, checked_eq_some, within_eq_true,
      systemOf_eq_some, lam, thr, decide_eq_true_eq]
    exact ⟨_, h1, _, ⟨⟨Nat.zero_le _, h2⟩, rfl⟩, _, ⟨⟨Nat.zero_le _, h3⟩, rfl⟩, _, ⟨⟨Nat.zero_le _, h4⟩, rfl⟩, _,
      ⟨⟨h5, h5'⟩, rfl⟩, _, ⟨⟨h6, h6'⟩, rfl⟩, _, ⟨⟨Nat.zero_le _, h7⟩, rfl⟩, _, ⟨⟨Nat.zero_le _, h8⟩, rfl⟩, _,
      ⟨⟨Nat.zero_le _, h9⟩, rfl⟩, _, ⟨h10, rfl⟩, _, h11, h12, rfl⟩

theorem LinkCfg.taken_iff (l : LinkCfg) (bytes : List Byte) : LinkCfg.ofBytes bytes = some l ↔ l.Taken bytes := by
  have set : ∀ (x : BitVec 12) (v : Nat), BitVec.ofNat 12 v = x ↔ ∀ i : Fin 12, x.getLsbD i.val = v.testBit i.val := by
    intro x v
    constructor
    · rintro rfl i
      rw [BitVec.getLsbD_ofNat]; simp
    · intro h
      apply BitVec.eq_of_getLsbD_eq
      intro i hi
      rw [BitVec.getLsbD_ofNat, h ⟨i, hi⟩]; simp [hi]
  have base : ∀ v : Nat, baseOk v = true ↔ (0x08 ≤ v ∧ v ≤ 0x74) ∧ v % 4 = 0 := by
    intro v; simp [baseOk, within]
  constructor
  · intro h
    unfold LinkCfg.ofBytes at h
    split at h
    · simp only [Option.bind_eq_bind, Option.bind_eq_some_iff, checked_eq_some, within_eq_true, yesNoOf_eq_some,
        finOf_eq_some, base, Option.some.injEq] at h
      obtain ⟨de, ⟨h1, rfl⟩, ig, h2, ba, ⟨h3, rfl⟩, ge, h4, rfl⟩ := h
      exact ⟨_, _, _, _, _, _, _, _, rfl, (set _ _).mp rfl, rfl, h1.1, h1.2, h2.symm, rfl, h3.1.1, h3.1.2, h3.2, h4,
        (set _ _).mp rfl⟩
    · cases h
  · rintro ⟨a0, a1, de, ig, ba, gc, m0, m1, rfl, h1, e2, h2, h2', h3, e4, h4, h4', h4'', h5, h6⟩
    obtain ⟨_, _, _, _, _, _⟩ := l
    dsimp only at *
    subst e2 e4
    simp only [LinkCfg.ofBytes, Option.bind_eq_bind, Option.bind_eq_some_iff, checked_eq_some, within_eq_true,
      yesNoOf_eq_some, finOf_eq_some, base]
    refine ⟨_, ⟨⟨h2, h2'⟩, rfl⟩, _, h3.symm, _, ⟨⟨⟨h4, h4'⟩, h4''⟩, rfl⟩, _, h5, ?_⟩
    rw [nat16, nat16, (set _ _).mpr h1, (set _ _).mpr h6]

/-- Strictly ascending lists are those in which each earlier number is below each later one. -/
theorem strictlyAscending_iff (l : List Nat) : strictlyAscending l = true ↔ l.Pairwise (· < ·) := by
  induction l with
  | nil => simp [strictlyAscending]
  | cons a rest ih =>
    cases rest with
    | nil => simp [strictlyAscending]
    | cons b t =>
      simp only [strictlyAscending, Bool.and_eq_true, decide_eq_true_eq, ih]
      constructor
      · rintro ⟨h, p⟩
        rw [List.pairwise_cons]
        refine ⟨?_, p⟩
        intro x hx
        rcases List.mem_cons.mp hx with rfl | hx
        · exact h
        · exact Nat.lt_trans h (List.rel_of_pairwise_cons p hx)
      · intro p
        rw [List.pairwise_cons] at p
        exact ⟨p.1 b (by simp), p.2⟩

/-- The leading entries of a vector rise when each earlier one in use is below each later one. -/
theorem take_pairwise {n : Nat} {α : Type} (f : α → Nat) (v : Vector α n) (k : Nat) :
    ((v.toList.take k).map f).Pairwise (· < ·) ↔ ∀ i j : Fin n, i < j → j.val < k → f v[i] < f v[j] := by
  rw [List.pairwise_iff_getElem]
  constructor
  · intro h i j hij hj
    have := h i.val j.val (by simp; omega) (by simp; omega) hij
    simpa using this
  · intro h i j hi hj hij
    simp at hi hj
    have := h ⟨i, by omega⟩ ⟨j, by omega⟩ hij (by simp; omega)
    simpa using this

theorem FanCfg.taken_iff (f : FanCfg) (bytes : List Byte) : FanCfg.ofBytes bytes = some f ↔ f.Taken bytes := by
  have asc : ∀ (v : Vector Nat 4) (k : Nat), strictlyAscending (v.toList.take k) = true ↔
      ∀ i j : Fin 4, i < j → j.val < k → v[i] < v[j] := by
    intro v k
    rw [strictlyAscending_iff, ← List.map_id (v.toList.take k)]
    exact take_pairwise id v k
  have all : ∀ v : Vector Nat 4, v.toList.all (within 1 1000) = true ↔ ∀ i : Fin 4, 1 ≤ v[i] ∧ v[i] ≤ 1000 := by
    intro v
    simp only [List.all_eq_true, within_eq_true, List.mem_iff_getElem]
    constructor
    · intro h i
      exact h _ ⟨i.val, by simp, by simp⟩
    · rintro h x ⟨i, hi, rfl⟩
      simpa using h ⟨i, by simpa using hi⟩
  constructor
  · intro h
    unfold FanCfg.ofBytes at h
    split at h
    · simp only [Option.bind_eq_bind, Option.bind_eq_some_iff, checked_eq_some, within_eq_true, Bool.and_eq_true, all, asc,
        Option.some.injEq] at h
      obtain ⟨n, ⟨h1, rfl⟩, st, ⟨h2, rfl⟩, sta, ⟨h3, rfl⟩, ra, ⟨h4, rfl⟩, q, ⟨h5, rfl⟩, rfl⟩ := h
      exact ⟨_, _, _, _, _, _, _, _, _, _, _, _, _, _, _, rfl, rfl, h1.1, h1.2, rfl, rfl, rfl, rfl, h2.1, h2.2, rfl, h3.1,
        h3.2, rfl, h4.1, h4.2, rfl, h5.2⟩
    · cases h
  · rintro ⟨n, a0, a1, b0, b1, c0, c1, d0, d1, s0, s1, r0, r1, q0, q1, rfl, e1, h1, h1', g0, g1, g2, g3, h2, h2', e3, h3,
      h3', e4, h4, h4', e5, h5⟩
    obtain ⟨_, st, _, _, _⟩ := f
    dsimp only at *
    subst e1 e3 e4 e5
    have hs : #v[nat16 a0 a1, nat16 b0 b1, nat16 c0 c1, nat16 d0 d1] = st := by
      apply Vector.ext
      intro i hi
      interval_cases i
      · exact g0.symm
      · exact g1.symm
      · exact g2.symm
      · exact g3.symm
    simp only [FanCfg.ofBytes, Option.bind_eq_bind, Option.bind_eq_some_iff, checked_eq_some, within_eq_true,
      Bool.and_eq_true, all, asc, hs]
    exact ⟨_, ⟨⟨h1, h1'⟩, rfl⟩, _, ⟨⟨h2, h2'⟩, rfl⟩, _, ⟨⟨h3, h3'⟩, rfl⟩, _, ⟨⟨h4, h4'⟩, rfl⟩, _,
      ⟨⟨Nat.zero_le _, h5⟩, rfl⟩, rfl⟩

/-- An entry is written exactly when its bytes are taken, and the configuration is then what they make of it. -/
theorem LiveConfig.writeEntry_iff (t : Table) (old new : LiveConfig) (n : Nat) (bytes : List Byte) :
    old.writeEntry t n bytes = some new ↔ old.EntryTaken new n bytes t := by
  have one : ∀ n : Nat, (∃ i : Fin 1, n = i.val) ↔ n = 0 := by
    intro n
    exact ⟨fun ⟨i, h⟩ => by omega, fun h => ⟨0, h⟩⟩
  cases t <;>
    simp only [LiveConfig.writeEntry, LiveConfig.EntryTaken, Option.bind_eq_bind, Option.bind_eq_some_iff, finOf_eq_some,
      CircuitCfg.taken_iff, BindingCfg.taken_iff, LaneCfg.taken_iff, FlashCfg.taken_iff, GaugeCfg.taken_iff,
      Point.taken_iff, FanCfg.taken_iff, BudgetCfg.taken_iff, LinkCfg.taken_iff, Option.some.injEq, senderXMax, driveXMax,
      reduceCtorEq]
  all_goals first
    | (constructor
       · rintro ⟨i, h, e, he, rfl⟩
         first
           | exact ⟨i, e, h, he, rfl⟩
           | exact ⟨e, by omega, he, rfl⟩
       · rintro ⟨i, e, h, he, rfl⟩
         exact ⟨i, h, e, he, rfl⟩)
    | (constructor
       · rintro ⟨i, h, e, he, rfl⟩
         exact ⟨e, by omega, he, rfl⟩
       · rintro ⟨e, h, he, rfl⟩
         exact ⟨0, h, e, he, rfl⟩)

/-- A stream's entries are written exactly when each is taken. -/
theorem LiveConfig.writeEntries_iff (t : Table) (new : LiveConfig) (entries : List (List Byte)) :
    ∀ (old : LiveConfig) (n : Nat),
      old.writeEntries t n entries = some new ↔ LiveConfig.EntriesTaken t new old n entries := by
  induction entries with
  | nil => intro old n; simp [LiveConfig.writeEntries, LiveConfig.EntriesTaken, eq_comm]
  | cons e rest ih =>
    intro old n
    simp only [LiveConfig.writeEntries, LiveConfig.EntriesTaken, Option.bind_eq_some_iff, LiveConfig.writeEntry_iff, ih]

/-- The complete entries of a stream, counted and placed. -/
theorem cutEntries_eq (size : Nat) (hs : 0 < size) :
    ∀ (count : Nat) (data : List Byte), cutEntries size count data =
      (List.range (min count (data.length / size))).map (fun j => (data.drop (size * j)).take size) := by
  intro count
  induction count with
  | zero => intro data; simp [cutEntries]
  | succ k ih =>
    intro data
    unfold cutEntries
    split
    · rename_i h
      rw [Nat.div_eq_of_lt h]; simp
    · rename_i h
      have hd : data.length / size = (data.length - size) / size + 1 := by
        rw [Nat.div_eq_sub_div hs (by omega)]
      rw [ih, hd, Nat.succ_min_succ, List.range_succ_eq_map, List.map_cons, List.map_map]
      simp only [Nat.mul_zero, List.drop_zero, List.length_drop, List.cons.injEq, true_and]
      apply List.map_congr_left
      intro j _
      simp only [Function.comp, List.drop_drop, Nat.mul_succ, Nat.add_comm]

/-- A circuit is an essential lamp exactly when it is a tell-tale. -/
theorem CircuitCfg.essentialLamp_iff (k : CircuitCfg) : k.essentialLamp = true ↔ k.TellTale := by
  unfold CircuitCfg.essentialLamp CircuitCfg.TellTale
  cases k.kind <;> simp [Kind.isLamp]

theorem takesDemands_iff (k : Kind) : k.takesDemands = true ↔ k ≠ .none ∧ k ≠ .gauge := by
  cases k <;> simp [Kind.takesDemands]

theorem LiveConfig.demandsStand_iff (cfg : LiveConfig) (s : State) : cfg.demandsStand s.occupied = true ↔
    ∀ c : CircuitId, s.dt.lists[c] ≠ [] → (cfg.circuits[c]).kind ≠ .none ∧ (cfg.circuits[c]).kind ≠ .gauge := by
  simp only [LiveConfig.demandsStand, List.all_eq_true, mem_allCircuits, true_implies, Bool.or_eq_true, takesDemands_iff,
    State.occupied, Bool.not_eq_true', decide_eq_false_iff_not]
  exact forall_congr' fun c => ⟨fun h n => h.resolve_left (fun k => k n), fun h => by
    by_cases e : s.dt.lists[c] ≠ []
    · exact Or.inr (h e)
    · exact Or.inl e⟩

theorem filter_le_one {n : Nat} (l : List (Fin n)) (hl : l.Nodup) (hm : ∀ x, x ∈ l) (p : Fin n → Bool) :
    (l.filter p).length ≤ 1 ↔ ∀ a b, p a = true → p b = true → a = b := by
  constructor
  · intro h a b ha hb
    have ma : a ∈ l.filter p := List.mem_filter.mpr ⟨hm a, ha⟩
    have mb : b ∈ l.filter p := List.mem_filter.mpr ⟨hm b, hb⟩
    match hq : l.filter p, h with
    | [], _ => rw [hq] at ma; cases ma
    | [x], _ =>
      rw [hq] at ma mb
      simp at ma mb
      rw [ma, mb]
  · intro h
    have hn : (l.filter p).Nodup := hl.filter _
    match hq : l.filter p with
    | [] => simp
    | [x] => simp
    | x :: y :: t =>
      exfalso
      have mx : x ∈ l.filter p := by rw [hq]; simp
      have my : y ∈ l.filter p := by rw [hq]; simp
      have := h x y (List.mem_filter.mp mx).2 (List.mem_filter.mp my).2
      rw [hq, this] at hn
      simp at hn

theorem LiveConfig.oneMotor_iff (cfg : LiveConfig) : cfg.oneMotor = true ↔
    ∀ c d : CircuitId, (cfg.circuits[c]).kind = .motor → (cfg.circuits[d]).kind = .motor → c = d := by
  unfold LiveConfig.oneMotor
  rw [decide_eq_true_eq, filter_le_one _ (by decide) mem_allCircuits]
  simp only [decide_eq_true_eq]

theorem LiveConfig.targetsStand_iff (cfg : LiveConfig) : cfg.targetsStand = true ↔
    ∀ (n : BindingId) (c : CircuitId), (cfg.bindings[n]).enable = true →
      (cfg.bindings[n]).action = .whileOn c ∨ (cfg.bindings[n]).action = .toggle c ∨
        (cfg.bindings[n]).action = .timed c →
      (cfg.circuits[c]).kind ≠ .none ∧ (cfg.circuits[c]).kind ≠ .gauge := by
  simp only [LiveConfig.targetsStand, List.all_eq_true, mem_allBindings, true_implies]
  refine forall_congr' fun n => ?_
  cases hb : (cfg.bindings[n]).enable <;> cases ha : (cfg.bindings[n]).action <;>
    simp [Action.circuit?, takesDemands_iff]

theorem LiveConfig.sevenFlash_iff (cfg : LiveConfig) : cfg.sevenFlash = true ↔
    ∀ which : List BindingId, which.Nodup →
      (∀ n ∈ which, ∃ lanes, (cfg.bindings[n]).action = .flashWhile lanes ∨
        (cfg.bindings[n]).action = .flashToggle lanes) → which.length ≤ 7 := by
  have hf : ∀ n : BindingId, (cfg.bindings[n]).action.isFlash = true ↔
      ∃ lanes, (cfg.bindings[n]).action = .flashWhile lanes ∨ (cfg.bindings[n]).action = .flashToggle lanes := by
    intro n
    cases (cfg.bindings[n]).action <;> simp [Action.isFlash, Action.circuit?]
  unfold LiveConfig.sevenFlash
  rw [decide_eq_true_eq]
  constructor
  · intro h which hn hw
    refine Nat.le_trans (List.Subperm.length_le (hn.subperm ?_)) h
    intro n hm
    exact List.mem_filter.mpr ⟨mem_allBindings n, (hf n).mpr (hw n hm)⟩
  · intro h
    refine h _ (List.Nodup.filter _ (by decide)) ?_
    intro n hm
    exact (hf n).mp (List.mem_filter.mp hm).2

theorem LiveConfig.membersStand_iff (cfg : LiveConfig) : cfg.membersStand = true ↔
    ∀ (side : Side) (c : CircuitId), c ∈ (cfg.lane side).members → (cfg.circuits[c]).TellTale := by
  simp only [LiveConfig.membersStand, List.all_eq_true, mem_allSides, true_implies, CircuitCfg.essentialLamp_iff]

theorem LiveConfig.noneShared_iff {α : Type} [DecidableEq α] (cfg : LiveConfig) (field : GaugeCfg → α) :
    cfg.noneShared field = true ↔ ∀ g h : ChannelId, (cfg.gauges[g]).enable = true → (cfg.gauges[h]).enable = true →
      field cfg.gauges[h] = field cfg.gauges[g] → h = g := by
  have hn : cfg.enabledChannels.Nodup := List.Nodup.filter _ (by decide)
  have hm : ∀ g : ChannelId, g ∈ cfg.enabledChannels ↔ (cfg.gauges[g]).enable = true := by
    intro g
    simp [LiveConfig.enabledChannels, mem_allChannels]
  unfold LiveConfig.noneShared
  rw [decide_eq_true_eq]
  constructor
  · intro h g k hg hk e
    exact List.inj_on_of_nodup_map h ((hm k).mpr hk) ((hm g).mpr hg) e
  · intro h
    exact hn.map_on fun x hx y hy e => h y x ((hm y).mp hy) ((hm x).mp hx) e

theorem LiveConfig.drivesStand_iff (cfg : LiveConfig) : cfg.drivesStand = true ↔
    ∀ g : ChannelId, (cfg.gauges[g]).enable = true →
      ((cfg.circuits[(cfg.gauges[g]).drive]).cls = 0 ∧ (cfg.circuits[(cfg.gauges[g]).drive]).kind = .gauge) ∧
      ∀ h : ChannelId, (cfg.gauges[h]).enable = true → (cfg.gauges[h]).drive = (cfg.gauges[g]).drive → h = g := by
  unfold LiveConfig.drivesStand
  simp only [Bool.and_eq_true, LiveConfig.noneShared_iff, List.all_eq_true, LiveConfig.enabledChannels, List.mem_filter,
    mem_allChannels, true_and, CircuitCfg.essentialGauge, decide_eq_true_eq]
  constructor
  · rintro ⟨h1, h2⟩ g hg
    exact ⟨⟨(h1 g hg).2, (h1 g hg).1⟩, fun k hk e => h2 g k hg hk e⟩
  · intro h
    exact ⟨fun g hg => ⟨(h g hg).1.2, (h g hg).1.1⟩, fun g k hg hk e => (h g hg).2 k hk e⟩

theorem LiveConfig.warningsStand_iff (cfg : LiveConfig) : cfg.warningsStand = true ↔
    ∀ g : ChannelId, (cfg.gauges[g]).enable = true → (cfg.gauges[g]).warnEnable = true →
      (cfg.circuits[(cfg.gauges[g]).warnCircuit]).TellTale := by
  unfold LiveConfig.warningsStand
  simp only [List.all_eq_true, LiveConfig.enabledChannels, List.mem_filter, mem_allChannels, true_and, Bool.or_eq_true,
    Bool.not_eq_true', CircuitCfg.essentialLamp_iff]
  refine forall_congr' fun g => ?_
  cases (cfg.gauges[g]).warnEnable <;> simp

/-- A curve is well formed exactly when its x rise strictly. -/
theorem curveWellFormed_iff (l : List Point) : curveWellFormed l = true ↔ (l.map Point.x).Pairwise (· < ·) := by
  rw [← strictlyAscending_iff]
  induction l with
  | nil => simp [curveWellFormed, strictlyAscending]
  | cons a rest ih =>
    cases rest with
    | nil => simp [curveWellFormed, strictlyAscending]
    | cons b t =>
      simp only [curveWellFormed, List.map_cons, strictlyAscending, Bool.and_eq_true] at ih ⊢
      rw [ih]

theorem LiveConfig.curvesStand_iff (cfg : LiveConfig) : cfg.curvesStand = true ↔
    ∀ g : ChannelId, (cfg.gauges[g]).enable = true →
      (∀ i j : Fin 12, i < j → j.val < (cfg.gauges[g]).senderPoints →
        ((cfg.sender[g])[i]).x < ((cfg.sender[g])[j]).x) ∧
      (∀ i j : Fin 8, i < j → j.val < (cfg.gauges[g]).drivePoints →
        ((cfg.drive[g])[i]).x < ((cfg.drive[g])[j]).x) := by
  unfold LiveConfig.curvesStand
  simp only [List.all_eq_true, LiveConfig.enabledChannels, List.mem_filter, mem_allChannels, true_and, Bool.and_eq_true,
    curveWellFormed_iff, LiveConfig.senderCurve, LiveConfig.driveCurve, take_pairwise]

theorem LiveConfig.lampStands_iff (cfg : LiveConfig) : cfg.lampStands = true ↔
    ∀ c : CircuitId, cfg.budget.lamp = some c → (cfg.circuits[c]).TellTale := by
  unfold LiveConfig.lampStands
  cases cfg.budget.lamp <;> simp [CircuitCfg.essentialLamp_iff]

/-- The checks that a write to a table is judged by are those of R159's table. -/
theorem LiveConfig.accepts_iff (cfg : LiveConfig) (s : State) (t : Table) (ht : t.readOnly = false) :
    cfg.accepts s.occupied t = true ↔ cfg.Passes s t := by
  cases t <;> simp only [Table.readOnly, Bool.true_eq_false] at ht <;>
      simp only [LiveConfig.accepts, Bool.and_eq_true, LiveConfig.demandsStand_iff, LiveConfig.oneMotor_iff,
        LiveConfig.targetsStand_iff, LiveConfig.sevenFlash_iff, LiveConfig.membersStand_iff, LiveConfig.drivesStand_iff,
        LiveConfig.sendersStand, LiveConfig.noneShared_iff, LiveConfig.warningsStand_iff, LiveConfig.curvesStand_iff,
        LiveConfig.lampStands_iff, true_iff]
  case circuit =>
    constructor
    · rintro ⟨⟨⟨⟨⟨⟨h1, h2⟩, h3⟩, h5⟩, h6⟩, h8⟩, h10⟩
      exact ⟨fun _ => h1, fun _ => h2, fun _ => h3, by simp, fun _ => h5, fun _ => h6, by simp, fun _ => h8, by simp,
        fun _ => h10⟩
    · rintro ⟨h1, h2, h3, -, h5, h6, -, h8, -, h10⟩
      exact ⟨⟨⟨⟨⟨⟨h1 rfl, h2 rfl⟩, h3 (.inr rfl)⟩, h5 (.inr rfl)⟩, h6 (.inr rfl)⟩, h8 (.inr rfl)⟩, h10 (.inr rfl)⟩
  case binding =>
    constructor
    · rintro ⟨h3, h4⟩
      exact ⟨by simp, by simp, fun _ => h3, fun _ => h4, by simp, by simp, by simp, by simp, by simp, by simp⟩
    · rintro ⟨-, -, h3, h4, -, -, -, -, -, -⟩
      exact ⟨h3 (.inl rfl), h4 rfl⟩
  case lane =>
    constructor
    · intro h5
      exact ⟨by simp, by simp, by simp, by simp, fun _ => h5, by simp, by simp, by simp, by simp, by simp⟩
    · rintro ⟨-, -, -, -, h5, -, -, -, -, -⟩
      exact h5 (.inl rfl)
  case gauge =>
    constructor
    · rintro ⟨⟨⟨h6, h7⟩, h8⟩, h9⟩
      exact ⟨by simp, by simp, by simp, by simp, by simp, fun _ => h6, fun _ => h7, fun _ => h8, fun _ => h9, by simp⟩
    · rintro ⟨-, -, -, -, -, h6, h7, h8, h9, -⟩
      exact ⟨⟨⟨h6 (.inl rfl), h7 rfl⟩, h8 (.inl rfl)⟩, h9 (.inl rfl)⟩
  case sender g =>
    constructor
    · intro h9
      exact ⟨by simp, by simp, by simp, by simp, by simp, by simp, by simp, by simp, fun _ => h9, by simp⟩
    · rintro ⟨-, -, -, -, -, -, -, -, h9, -⟩
      exact h9 (.inr ⟨g, .inl rfl⟩)
  case drive g =>
    constructor
    · intro h9
      exact ⟨by simp, by simp, by simp, by simp, by simp, by simp, by simp, by simp, fun _ => h9, by simp⟩
    · rintro ⟨-, -, -, -, -, -, -, -, h9, -⟩
      exact h9 (.inr ⟨g, .inr rfl⟩)
  case budget =>
    constructor
    · intro h10
      exact ⟨by simp, by simp, by simp, by simp, by simp, by simp, by simp, by simp, by simp, fun _ => h10⟩
    · rintro ⟨-, -, -, -, -, -, -, -, -, h10⟩
      exact h10 (.inl rfl)
  all_goals exact ⟨by simp, by simp, by simp, by simp, by simp, by simp, by simp, by simp, by simp, by simp⟩

end Sys2Proof.Machine
end

