-- ==== Sys2Proof/Tests/Slice0.lean ====
section
/-! SUPPORT. The model's own tests: the well-formedness smoke, the worked values of the spec, and for every statement with
hypotheses a concrete state and operands that meet them, clause by clause at the ends of their ranges. -/

namespace Sys2Proof.Tests

set_option Elab.async false

open Sys2Proof Sys2Proof.Machine

/-! ### Small states -/

/-- C0 and C1 are class 0 lamps, C2 a lamp and C3 the fan of class 1, C13 the heater of G0. -/
def testCircuits : Vector CircuitCfg 16 :=
  ((((factoryConfig.circuits.set 0 ⟨200, 0, .filament, 0, 6, 100, 50, 3, true⟩).set 1
    ⟨100, 0, .led, 0, 1, 0, 50, 0, false⟩).set 2 ⟨300, 0, .filament, 1, 1, 0, 50, 3, false⟩).set 3
    ⟨400, 0, .motor, 1, 1, 0, 50, 1, false⟩).set 13 ⟨100, 0, .gauge, 0, 1, 0, 50, 3, false⟩

/-- B0 is an ungated WHILE on C0 from S1, B1 a FLASH-WHILE on LEFT from S2, B2 a gated TIMED on C1 from S3. -/
def testBindings : Vector BindingCfg 16 :=
  ((factoryConfig.bindings.set 0 ⟨true, 1, true, none, false, .whileOn 0, 800, 5, 1, false⟩).set 1
    ⟨true, 2, true, none, false, .flashWhile .left, 0, 0, 1, false⟩).set 2
    ⟨true, 3, true, none, false, .timed 1, 500, 4, 10, true⟩

/-- The configuration of the tests: LEFT on C0, RIGHT on C1, G0 enabled with its warning on C1. -/
def testConfig : LiveConfig :=
  { factoryConfig with
    circuits := testCircuits
    bindings := testBindings
    lanes := #v[⟨[0], 900, 12⟩, ⟨[1], 1000, 12⟩]
    gauges := factoryConfig.gauges.set 0 { factoryGauge 0 13 with
      enable := true, warnEnable := true, warnThr := 100, warnDelay := 2, warnCircuit := 1, damping := 3 } }

/-- A parked part at work under the test configuration. -/
def base : State :=
  { State.reset with
    now := 1000000
    cfg := testConfig
    ge := State.reset.ge.set 0 { Channel.reset true 0 with convertDue := some 1000020 }
    sbu := { Supply.reset 1000000 with last := ⟨true, 400, 0, 400, 0, false⟩ }
    lp := LinkPort.reset 0 0 }

/-- The part in RUN, with all three of the test's inputs known. -/
def running : State :=
  { base with
    ibu := { base.ibu with inputs := Vector.replicate 12 ⟨some false, none, 0⟩, ignition := true }
    sbu := { base.sbu with power := .run, sleepSince := none } }

/-- The part asleep. -/
def sleeping : State := base.enterAsleep

/-- The base state with the record of one circuit replaced. -/
def withCircuit (c : CircuitId) (r : Circuit) : State := { base with cc := base.cc.set c r }

/-- The base state with channel G0 replaced. -/
def withChannel (ch : Channel) : State := { base with ge := base.ge.set 0 ch }

/-- A channel in a state with a full buffer of one code and its tick due. -/
def ticking (state : GaugeState) (code : Nat) : Channel :=
  { Channel.reset true 0 with
    state := state, codes := [code, code, code, code], tickDue := some 1000000, filter := 8000, goodRun := 4
    faultRun := 4, hold := 48 }

/-- C0 driven at 1000 in ON, its measurement due. -/
def lit : Circuit :=
  { Circuit.reset with
    state := .on, resolved := 1000, granted := 1000, applied := 1000, measureDue := some 1000000 }

/-- The part with S1 to S3 ACTIVE, the ignition ON and a binding in a state. -/
def bound (n : BindingId) (b : BindingState) : State :=
  { running with ibu := { running.ibu with
    inputs := Vector.replicate 12 ⟨some true, none, 0⟩, bindings := running.ibu.bindings.set n b } }

/-- The part in RUN with its supply sample due and a run begun at a time. -/
def supplied (state : SupplyState) (since : Nat) : State :=
  { running with sbu := { running.sbu with
    state := state, samples := [5000, 5000, 5000, 5000], sampleDue := some 1000000, belowLow := some since
    belowCritical := some since, atThreshold := some since } }

/-- The state with demands placed in slots 0, 1, ...: by hand, with tag 1. -/
def withDemands (ds : List Demand) (s : State) : State :=
  { s with
    dt := ds.zipIdx.foldl (fun dt q => { dt with
      slots := dt.slots.set (Fin.ofNat 64 q.2) ⟨1, some q.1⟩
      lists := dt.lists.set q.1.circuit (dt.lists[q.1.circuit] ++ [Fin.ofNat 64 q.2])
      hostCount := if q.1.source = .host then dt.hostCount + 1 else dt.hostCount }) s.dt }

/-- A host demand at level 600 on a circuit, with a hold that runs out at a time. -/
def hostDemand (c : CircuitId) (expiry : Option Nat) : Demand := ⟨c, .host, .on, some 600, 5, expiry, false⟩

/-- The state after a command; the state itself if the command stops. -/
def after (i : Instr) (s : State) : State :=
  match exec i s with
  | .next t => t
  | .fault _ => s
  | .refused _ => s

/-- The part with LEFT flashing for the host, in ON. -/
def signalling : State := after (.flash 0 2) base

/-- The part with its clock synced, in a clock state, with the wire low or not. -/
def synced (clock : ClockState) (low : Bool) : State :=
  { signalling with fu := { signalling.fu with
    clock := clock, synced := true, phaseDue := some 1000000, waitDue := some 1000000, wireLow := low } }

/-- Every command answers a next state. -/
theorem exec_after (i : Instr) (s : State) : exec i s = .next (after i s) := by cases i <;> rfl

/-- The result of the frame a command ends with. -/
def resultOf (i : Instr) (s : State) : Result := (after i s).lp.last.result

/-- `State.Ready` as a test. -/
def isReady (s : State) : Bool := s.powered && decide (s.sbu.power ≠ .asleep) && !s.evaluate

theorem ready_of {s : State} (h : isReady s = true) : s.Ready := by
  unfold isReady at h
  simp only [Bool.and_eq_true, decide_eq_true_eq, Bool.not_eq_true'] at h
  exact ⟨h.1.1, h.1.2, h.2⟩

theorem ready_base : base.Ready := ready_of (by decide +kernel)

theorem ready_running : running.Ready := ready_of (by decide +kernel)

/-! ### Well-formedness -/

theorem test_wellFormed_emptyStream : (Instr.writeStream []).wellFormed = false := by decide

theorem test_wellFormed_longStream : (Instr.writeStream (List.replicate 259 0)).wellFormed = false := by decide +kernel

theorem test_wellFormed_stream : (Instr.writeStream (List.replicate 258 0)).wellFormed = true := by decide +kernel

theorem test_wellFormed_code :
    (Instr.senderConversion 0 4096).wellFormed = false ∧ (Instr.senderConversion 0 4095).wellFormed = true := by decide

theorem test_wellFormed_savedPage :
    (Instr.savePageProgrammed [(32, 0)]).wellFormed = false ∧ (Instr.savePageProgrammed [(31, 0)]).wellFormed = true := by
  decide

theorem test_wellFormed_erasedPage :
    (Instr.erasePageErased [(0, 0), (32, 0)]).wellFormed = false ∧ (Instr.erasePageErased []).wellFormed = true := by
  decide

/-! ### Worked values of the spec -/

/-- R168: the nine bytes of the characters 1 to 9 give 0x29B1. -/
theorem test_crc : crcOf ((List.range 9).map (fun i => byteOf (0x31 + i))) = 0x29B1 := by decide +kernel

/-- R109: code 3900 gives 7959 on LOW and 16383 on HIGH. -/
theorem test_resistance : resistanceOf (factoryGauge 0 13) 3900 = 7959 ∧
    resistanceOf { factoryGauge 0 13 with rangeHigh := true } 3900 = 16383 := by decide +kernel

/-- R107: the two means. -/
theorem test_mean : meanOf [1498, 1501, 1500, 1502] = 1500 ∧ meanOf [1003, 1006] = 1004 := by decide

/-- R108: the codes at the default thresholds. -/
theorem test_judged : codeGood (factoryGauge 0 13) 20 = false ∧ codeGood (factoryGauge 0 13) 21 = true ∧
    codeGood (factoryGauge 0 13) 4034 = true ∧ codeGood (factoryGauge 0 13) 4035 = false := by decide +kernel

/-- R113: the table of k. -/
theorem test_coefficient : [0, 1, 2, 3, 7, 30, 255].map dampingCoefficient = [256, 128, 85, 64, 32, 8, 1] := by decide

/-- R118: the table of mapped levels. -/
theorem test_mapped : [0, 100, 250, 499, 500, 600, 999, 1000].map factoryFan.mapLevel =
    [0, 250, 250, 250, 500, 500, 750, 1000] := by decide +kernel

/-- R33: the retry delays of seven trips in a row. -/
theorem test_retryDelay : [1, 2, 3, 4, 5, 6, 7].map retryDelay = [250, 500, 1000, 2000, 4000, 4000, 4000] := by decide

/-- R4: the handle of slot 3 with tag 7; a tag of 255 is followed by 1. -/
theorem test_handle : handleOf 3 7 = 775 ∧ nextTag 255 = 1 ∧ nextTag 0 = 1 := by decide

/-- 00_scope.md: the expected draw of 100 (1 A) at level 333 is rounded up. -/
theorem test_draw : expectedDraw 100 333 = 34 ∧ expectedDraw 100 0 = 0 := by decide

/-- R150: a response and its check byte sum to 0. -/
theorem test_response : byteSum (responseBytes .ok [0x12, 0x34]) = 0 := by decide

/-- 00_scope.md: halves are rounded up, or away from zero. -/
theorem test_halves : roundHalfUp 5 2 = 3 ∧ roundHalfAway (-5) 2 = -3 ∧ roundHalfAway (-4) 3 = -1 := by decide +kernel

/-! ### Worked cases of 06 -/

/-- The sender curve of the fuel gauge. -/
def fuelSender : List Point := [⟨20, 1000⟩, ⟨120, 700⟩, ⟨240, 400⟩, ⟨360, 0⟩]

/-- The drive curve of the fuel gauge. -/
def fuelDrive : List Point := [⟨0, 120⟩, ⟨500, 520⟩, ⟨1000, 1000⟩]

/-- One tick of a fuel gauge, stage by stage. -/
theorem test_fuelTick : resistanceOf (factoryGauge 0 13) 1500 = 231 ∧ curveLookup fuelSender 231 = 422 ∧
    filterNext 30 8000 422 = 7961 ∧ displayedOf 7961 = 498 ∧ curveLookup fuelDrive 498 = 518 ∧
    targetVoltage 5000 518 = 2590 ∧ dutyOf 2590 6300 = 411 ∧ filterNext 30 7961 422 = 7924 := by decide +kernel

/-- The ends of a descending curve. -/
theorem test_descendingCurve : [15, 21, 231, 346, 421].map (curveLookup fuelSender) = [1000, 997, 422, 47, 0] := by
  decide +kernel

/-- The filter's last approach. -/
theorem test_lastApproach : [7990, 7992, 7994, 7995, 7996, 7997, 7998, 7999, 8000].map (fun f => filterNext 3 f 500) =
    [7992, 7994, 7995, 7996, 7997, 7998, 7999, 8000, 8000] := by decide +kernel

/-- A supply that cannot meet the gauge. -/
theorem test_undersupply : [6300, 5100, 5400, 5402, 5350, 6100].map (fun s => (dutyOf 5400 s, undersupplied 5400 s)) =
    [(857, false), (1000, true), (1000, true), (1000, false), (1000, true), (885, false)] := by decide +kernel

/-! ### Witnesses: the queue and the power -/

theorem witness_step : ({ base with pending := [.readStatus] } : State).pending = .readStatus :: [] := rfl

/-- Each clause of the idle step: a due timer, a due sample, neither. -/
theorem witness_idle :
    (State.reset.pending = [] ∧ ({ State.reset with now := 1000 } : State).dueEvents ≠ []) ∧
    (({ State.reset with now := 5 } : State).dueEvents = [] ∧
      ({ State.reset with now := 5 } : State).awaitsSample = true) ∧
    (State.reset.dueEvents = [] ∧ State.reset.awaitsSample = false) := by decide +kernel

theorem witness_whole : State.reset.evaluate = false ∧ base.evaluate = false := by decide +kernel

/-- A blank image is bad. (That the image of every lawful configuration is good is `SavedImageLoadsBack`.) -/
theorem witness_powerOn : judge (after (.powerOnReset 1) base).cs.image = none := by decide +kernel

/-- A page in hand at a power-on reset. -/
theorem witness_powerOnCut : ({ base.cs with state := .saving 31 } : Store).state.pageInHand = some 31 ∧
    ({ base.cs with state := .saving 32 } : Store).state.pageInHand = none := by decide

theorem stored_factory : factoryConfig.stored := by
  unfold LiveConfig.stored; decide +kernel

theorem witness_savedImage : factoryConfig.stored ∧ factoryConfig.lawful (fun _ => false) = true :=
  ⟨stored_factory, by decide +kernel⟩

theorem witness_powerLoss : base.powered = true ∧ (after .powerLossOrResetAsserted base).powered = false := by
  decide +kernel

theorem witness_unpowered : (after .powerLossOrResetAsserted base).powered = false ∧
    after .readStatus (after .powerLossOrResetAsserted base) = after .powerLossOrResetAsserted base ∧
    (after .syncLineFall (after .powerLossOrResetAsserted base)).fu.wireLow = true ∧
    (after .syncLineFall { synced .on false with powered := false }).fu.lineRead =
      (synced .on false).fu.lineRead := by decide +kernel

/-! ### Witnesses: the demand table -/

/-- A handle that names a demand, and four that do not: tag 0, another tag, slot 64, an empty slot. -/
theorem witness_handle : ((withDemands [hostDemand 0 none] base).dt.named 0x0001).isSome = true ∧
    [0x0000, 0x0002, 0x4001, 0x0101].map (fun h => ((withDemands [hostDemand 0 none] base).dt.named h).isSome) =
      [false, false, false, false] := by decide +kernel

/-- The clauses of PLACE at the ends of their ranges. -/
theorem witness_place : base.Ready ∧
    [resultOf (.place 16 0 1 1 0 0) base, resultOf (.place 0 2 1 1 0 0) base, resultOf (.place 0 0 1 16 0 0) base,
      resultOf (.place 15 0 1 1 0 0) base, resultOf (.place 13 0 1 1 0 0) base, resultOf (.place 0 1 1 15 0 1) base,
      resultOf (.place 0 0 1 15 0 0) { base with dt := { base.dt with hostCount := 20 } },
      resultOf (.place 0 0 1000 15 0 0) { base with dt := { base.dt with hostCount := 19 } },
      resultOf (.place 1 1 0 0 65535 1) running] =
    [.badParameter, .badParameter, .badParameter, .wrongKind, .wrongKind, .wrongState, .quotaFull, .ok, .ok] :=
  ⟨ready_base, by decide +kernel⟩

/-- The example of 09: the handle 2306 is slot 9 with tag 2. -/
theorem test_place : (after (.place 1 0 300 15 300 0) (withDemands (List.replicate 9 (hostDemand 0 none))
      { base with dt := { base.dt with slots := base.dt.slots.set 9 ⟨1, none⟩ } })).lp.last = ⟨0x10, .ok, 2306⟩ := by
  decide +kernel

/-- Host demands stand in slots 0 and 2, a binding's in slot 1; slot 2 holds an OFF. -/
def demanded : State :=
  withDemands [hostDemand 0 none, ⟨1, .binding 2, .on, some 500, 4, none, true⟩,
    ⟨1, .host, .off, none, 3, none, false⟩] base

theorem ready_demanded : demanded.Ready := ready_of (by decide +kernel)

/-- The clauses of AMEND. -/
theorem witness_amend : demanded.Ready ∧
    [resultOf (.amend 1 0xF8 0 0 0) demanded, resultOf (.amend 1 2 0 16 0) demanded,
      resultOf (.amend 2 1 0 0 0) demanded, resultOf (.amend 0x101 1 0 0 0) demanded,
      resultOf (.amend 0x201 1 0 0 0) demanded, resultOf (.amend 0x201 2 0 15 0) demanded,
      resultOf (.amend 1 7 1001 0 1) demanded] =
    [.badParameter, .badParameter, .noSuchDemand, .notOwner, .badParameter, .ok, .ok] ∧
    (demanded.cfg.circuits[(0 : CircuitId)]).kind.takesDemands = true ∧
    ((after (.amend 1 7 1001 0 1) demanded).dt.res[(0 : CircuitId)]).resolved = 1000 :=
  ⟨ready_demanded, by decide +kernel⟩

theorem test_amend : (((after (.amend 1 7 1001 0 1) demanded).dt.slots[(0 : SlotId)]).demand).map
      (fun d => (d.level, d.priority, d.expiry)) = some (some 1000, 0, some 1000100) := by decide +kernel

/-- The clauses of RETIRE. -/
theorem witness_retire : demanded.Ready ∧
    [resultOf (.retire 2) demanded, resultOf (.retire 0x101) demanded, resultOf (.retire 0x201) demanded] =
    [.noSuchDemand, .notOwner, .ok] := ⟨ready_demanded, by decide +kernel⟩

/-- A host demand and another for the clauses of RETIRE-HOST-ALL. -/
theorem witness_retireHostAll : demanded.Ready ∧
    ((after .retireHostAll demanded).dt.slotsWhere (fun _ => true)) = [1] ∧
    (after .retireHostAll demanded).dt.hostCount = 0 := ⟨ready_demanded, by decide +kernel⟩

theorem lawful_empty : DemandTable.reset.Lawful := by
  have hs : ∀ slot : SlotId, DemandTable.reset.slots[slot] = ⟨0, none⟩ := by decide +kernel
  have hl : ∀ c : CircuitId, DemandTable.reset.lists[c] = [] := by decide +kernel
  constructor
  · intro c slot; rw [hl, hs]; simp
  · intro c; rw [hl]; exact List.nodup_nil
  · intro c; rw [hl]; exact List.Pairwise.nil
  · intro slot; rw [hs]; simp
  · decide +kernel
  · decide
  · intro i j a b h; rw [hs] at h; simp at h

theorem lawful_base : base.dt.Lawful := lawful_empty

/-- An empty table, for the host and for each key. -/
theorem witness_freeSlot : base.dt.Lawful ∧ (∀ side, (base.cfg.lane side).members.length ≤ 4) ∧
    (∀ (slot : SlotId), (base.dt.slots[slot]).demand = none) ∧ base.dt.hostCount < 20 ∧
    base.dt.keyed (.lane .left) 0 = none ∧ (0 : CircuitId) ∈ (base.cfg.lane .left).members ∧
    base.dt.keyed .charge 0 = none :=
  ⟨lawful_base, by intro side; cases side <;> decide +kernel, by decide +kernel, by decide +kernel, by decide +kernel,
    by decide +kernel, by decide +kernel⟩

/-! ### Witnesses: reads, wakes and frames -/

/-- The clauses of the reads at the ends of their ranges. -/
theorem witness_reads : demanded.Ready ∧
    [resultOf (.readDemand 2) demanded, resultOf (.readDemand 1) demanded, resultOf (.listCircuit 16) demanded,
      resultOf (.readCircuit 15) demanded, resultOf (.listCircuit 15) demanded, resultOf (.readGauge 3) demanded,
      resultOf (.readGauge 2) demanded, resultOf .readSupply demanded, resultOf .readStream demanded,
      resultOf .readStream { demanded with lp := { demanded.lp with window := some ⟨.circuit, 0, 15⟩ } },
      resultOf .readStatus demanded, resultOf .readResult demanded] =
    [.noSuchDemand, .ok, .badParameter, .ok, .ok, .badParameter, .ok, .ok, .noWindow, .ok, .ok, .ok] :=
  ⟨ready_demanded, by decide +kernel⟩

/-- The lengths of the records of R166, and what some of their bytes show. -/
theorem test_records : (demanded.listBytes 1).length = 9 ∧ (demanded.circuitBytes 0).length = 29 ∧
    (demanded.gaugeBytes 0).length = 30 ∧ demanded.supplyBytes.length = 22 ∧ demanded.statusBytes.length = 55 ∧
    demanded.lp.last.bytes = [0, 0, 0, 0] ∧ demanded.listBytes 1 = [2, 1, 1, 1, 2, 0, 0, 0, 0] ∧
    (demanded.circuitBytes 0).take 12 = [200, 0, 0, 0, 1, 0, 6, 100, 50, 3, 1, 0] ∧
    ((withChannel { ticking .tracking 7 with averaged := 3, code := 300 }).gaugeBytes 0).take 4 = [3, 3, 44, 1] := by
  decide +kernel

/-- The entries of the windows of R156, the read-only tables included: their lengths, the ends of a DEMAND window, and
fields of a BINDING, a LANE, a GAUGE and the LINK entry. -/
theorem test_stream :
    (([.circuit, .binding, .lane, .flash, .gauge, .sender 2, .drive 2, .fan, .budget, .link, .circuitState, .gaugeState] :
      List Table).map (fun t => (demanded.windowBytes ⟨t, 0, t.entries - 1⟩).length)) =
      [192, 128, 16, 7, 54, 48, 32, 15, 20, 8, 272, 90] ∧
    demanded.windowBytes ⟨.demand, 0, 0⟩ = demanded.demandBytes 0 ∧
    demanded.windowBytes ⟨.demand, 63, 63⟩ = [0, 63, 0, 0, 0, 0, 0, 0, 0, 0, 0] ∧
    demanded.windowBytes ⟨.binding, 2, 2⟩ = [0x47, 0xF3, 2, 1, 0xF4, 1, 10, 0] ∧
    demanded.windowBytes ⟨.lane, 1, 1⟩ = [1, 1, 0xFF, 0xFF, 0xFF, 0xE8, 3, 12] ∧
    (demanded.windowBytes ⟨.gauge, 0, 0⟩).take 6 = [5, 0, 13, 0xD9, 3, 5] ∧
    demanded.windowBytes ⟨.link, 0, 0⟩ = [0xFF, 0x0F, 4, 0, 0x2C, 0, 0xFF, 0x0F] := by decide +kernel

/-- A window whose entries are shown: two entries of a read-only table. -/
theorem witness_stream : (⟨.demand, 62, 63⟩ : Window).first ≤ (⟨.demand, 62, 63⟩ : Window).last ∧
    (⟨.demand, 62, 63⟩ : Window).last < Table.demand.entries := by decide

/-- A demand record and an empty slot. -/
theorem witness_demandRecord : ((demanded.dt.slots[(0 : SlotId)]).demand).isSome = true ∧
    (demanded.dt.slots[(63 : SlotId)]).demand = none := by decide +kernel

/-- Awake, and asleep with an address for the part and for another. -/
theorem witness_wake : base.powered = true ∧ base.sbu.power ≠ .asleep ∧ sleeping.powered = true ∧
    sleeping.sbu.power = .asleep ∧ sleeping.acknowledges 0x2C true = true ∧ sleeping.acknowledges 0x2D true = false ∧
    sleeping.acknowledges 0 false = false ∧ commandCode .readStatus ≠ none ∧ sleeping.sbu.sleepSince = none ∧
    (after (.inputWake 0) { sleeping with now := 2000000 }).sbu.sleepSince = some 2000000 := by decide +kernel

/-- The part with general calls enabled. -/
def called : State := { base with cfg := { base.cfg with link := { base.cfg.link with generalCall := true } } }

theorem ready_called : called.Ready := ready_of (by decide +kernel)

/-- The judgements of a frame: for another address; empty; too long; one byte; a wrong sum; no command; a command that a
general call may not carry; a wrong number of parameters; executed. -/
theorem witness_frames : called.Ready ∧ called.isOwn 0x2C = true ∧ called.isGeneral 0 = true ∧
    called.isOwn 0x2D = false ∧ called.isGeneral 0x2D = false ∧
    after (.writeFrame 0x2D [0x70, 0x90]) called = called ∧ after (.writeFrame 0x2C []) called = called ∧
    [resultOf (.writeFrame 0x2C (List.replicate 261 0)) called, resultOf (.writeFrame 0x2C [0x70]) called,
      resultOf (.writeFrame 0x2C [0x70, 0x91]) called, resultOf (.writeFrame 0x2C [0x01, 0xFF]) called,
      resultOf (.writeFrame 0 [0x70, 0x90]) called, resultOf (.writeFrame 0x2C [0x70, 0x00, 0x90]) called,
      resultOf (.writeFrame 0x2C [0x70, 0x90]) called, resultOf (.writeFrame 0 [0x32, 0x01, 0xCD]) called] =
    [.badParameter, .badParameter, .checkFailed, .badCommand, .badCommand, .badParameter, .ok, .ok] :=
  ⟨ready_called, by decide +kernel⟩

/-- The bytes acknowledged: the 260th, not the 261st, and none of a frame for another address. -/
theorem witness_frameBytes : called.acknowledgesByte 0x2C 260 = true ∧ called.acknowledgesByte 0x2C 261 = false ∧
    called.acknowledgesByte 0 260 = true ∧ called.acknowledgesByte 0x2D 1 = false := by decide +kernel

theorem witness_frameOf : (Instr.place 11 0 300 15 300 0).wellFormed = true ∧
    (frameOf (.place 11 0 300 15 300 0)).isSome = true ∧ (frameOf .holdExpiry).isSome = false ∧
    base.isOwn 0x2C = true := by decide +kernel

/-! ### Witnesses: the window, the tables, the status -/

/-- The clauses of SET-WINDOW: no such table, first beyond the table, last before first, a last that is clamped, set. -/
theorem witness_window : base.Ready ∧ tableOf 0x00 = none ∧
    (∃ b : Byte, tableOf b = some .binding ∧
      [resultOf (.setWindow 0x00 0 0) base, resultOf (.setWindow b 16 16) base, resultOf (.setWindow b 5 4) base] =
        [.badParameter, .badParameter, .badParameter] ∧
      (after (.setWindow b 15 20) base).lp.window = some ⟨.binding, 15, 15⟩ ∧
      (after (.setWindow b 4 7) base).lp.window = some ⟨.binding, 4, 7⟩) :=
  ⟨ready_base, by decide +kernel, 0x02, by decide +kernel⟩

/-- The resets that clear the window. -/
theorem witness_windowCleared : base.cs.state = .idle ∧ (exec .reset base = .next (after .reset base)) ∧
    exec (.powerOnReset 3) base = .next (after (.powerOnReset 3) base) ∧
    exec (.erasePageErased []) { base with cs := { base.cs with state := .erasing 31 } } =
      .next (after (.erasePageErased []) { base with cs := { base.cs with state := .erasing 31 } }) :=
  ⟨by decide +kernel, exec_after _ _, exec_after _ _, exec_after _ _⟩

/-- The base state with a window. -/
def windowed (t : Table) (first last : Nat) : State := { base with lp := { base.lp with window := some ⟨t, first, last⟩ } }

theorem ready_windowed (t : Table) (first last : Nat) : (windowed t first last).Ready :=
  ⟨ready_base.powered, ready_base.awake, ready_base.settled⟩

/-- The clauses of WRITE-STREAM, at one byte and at 258. -/
theorem witness_writeStream : (windowed .lane 0 1).Ready ∧
    [resultOf (.writeStream [0]) base, resultOf (.writeStream [0]) (windowed .demand 0 63),
      resultOf (.writeStream [0]) { windowed .lane 0 1 with cs := { base.cs with state := .saving 0 } },
      resultOf (.writeStream [0]) { windowed .lane 0 1 with cs := { base.cs with lock := true } },
      resultOf (.writeStream (List.replicate 7 0)) (windowed .lane 0 1),
      resultOf (.writeStream [5, 0, 1, 2, 3, 0, 0, 0]) (windowed .lane 0 1),
      resultOf (.writeStream [1, 13, 0xFF, 0xFF, 0xFF, 0, 0, 0]) (windowed .lane 0 1),
      resultOf (.writeStream [1, 0, 0xFF, 0xFF, 0xFF, 0x84, 0x03, 12]) (windowed .lane 0 1),
      resultOf (.writeStream [1, 0, 0xFF, 0xFF, 0xFF, 0x84, 0x03, 12, 0]) (windowed .lane 0 1),
      resultOf (.writeStream (List.replicate 258 0)) (windowed .lane 1 1)] =
    [.noWindow, .badCommand, .busy, .storeLocked, .truncated, .invalidTable, .invalidTable, .ok, .truncated,
      .truncated] := ⟨ready_windowed _ _ _, by decide +kernel⟩

/-- What a LANE entry and a CIRCUIT entry give (R25, R70): members beyond the count disregarded, a level above 1000
stored as 1000; DEFAULT and forced fields stored as the kind has them, a field out of range refused. -/
theorem witness_taken :
    (⟨[0], 1000, 15⟩ : LaneCfg).Taken [1, 0, 0xFF, 16, 0, 0xE9, 0x03, 15] ∧
    (⟨200, 0, .filament, 0, 6, 100, 50, 3, true⟩ : CircuitCfg).Taken
      [200, 0, 0, 0, 1, 0, 0xFF, 0xFF, 0xFF, 0xFF, 1, 0] ∧
    (⟨200, 0, .motor, 1, 1, 0, 10, 7, false⟩ : CircuitCfg).Taken [200, 0, 0, 0, 3, 1, 9, 7, 10, 7, 2, 0] ∧
    (∀ k : CircuitCfg, ¬ k.Taken [200, 0, 0, 0, 1, 0, 9, 0, 50, 3, 1, 0]) ∧
    (∀ k : CircuitCfg, ¬ k.Taken [200, 0, 0, 0, 1, 0, 6, 0, 50, 3, 1, 1]) ∧
    FlashTimeTaken 99 100 ∧ FlashTimeTaken 1001 1000 ∧ FlashTimeTaken 109 100 ∧ FlashTimeTaken 1000 1000 := by
  refine ⟨(LaneCfg.taken_iff _ _).mp (by decide +kernel), (CircuitCfg.taken_iff _ _).mp (by decide +kernel),
    (CircuitCfg.taken_iff _ _).mp (by decide +kernel), fun k h => ?_, fun k h => ?_,
    (flashTime_taken _ _).mp (by decide +kernel), (flashTime_taken _ _).mp (by decide +kernel),
    (flashTime_taken _ _).mp (by decide +kernel), (flashTime_taken _ _).mp (by decide +kernel)⟩
  · have h' := (CircuitCfg.taken_iff _ _).mpr h
    rw [show CircuitCfg.ofBytes [200, 0, 0, 0, 1, 0, 9, 0, 50, 3, 1, 0] = none by decide +kernel] at h'
    cases h'
  · have h' := (CircuitCfg.taken_iff _ _).mpr h
    rw [show CircuitCfg.ofBytes [200, 0, 0, 0, 1, 0, 6, 0, 50, 3, 1, 1] = none by decide +kernel] at h'
    cases h'

/-- Whether the configuration that a stream gives, taken alone, passes the checks of its table. -/
def passes (t : Table) (n : Nat) (bytes : List Byte) : Option Bool :=
  (base.cfg.writeEntries t n [bytes]).map (fun cfg => cfg.accepts base.occupied t)

/-- A stream whose entry is taken and passes, one whose entry is taken and fails a check, and one that is not taken. -/
theorem witness_passes :
    [passes .lane 0 [1, 0, 0xFF, 0xFF, 0xFF, 0, 0, 0], passes .lane 0 [1, 13, 0xFF, 0xFF, 0xFF, 0, 0, 0],
      passes .lane 0 [1, 16, 0xFF, 0xFF, 0xFF, 0, 0, 0], passes .budget 0 ({ factoryBudget with lamp := some 3 } :
        BudgetCfg).bytes, passes .circuit 13 (base.cfg.circuits[(0 : CircuitId)]).bytes,
      passes (.drive 0) 0 [0, 0, 0xE8, 3],
      passes (.drive 0) 0 [0, 0, 0xE9, 3], passes (.drive 0) 1 [0, 0, 0, 0]] =
    [some true, some false, none, some false, some false, some true, none, some false] := by decide +kernel

/-- A lawful stream in the terms of the statement: its entries are taken, and the checks of its table pass. -/
theorem witness_lawfulStream :
    ∃ cfg, LiveConfig.EntriesTaken .lane cfg base.cfg 0 [[1, 0, 0xFF, 0xFF, 0xFF, 0xE8, 0x03, 15]] ∧ cfg.Passes base .lane :=
  ⟨(base.cfg.writeEntries .lane 0 [[1, 0, 0xFF, 0xFF, 0xFF, 0xE8, 0x03, 15]]).getD base.cfg,
    (LiveConfig.writeEntries_iff _ _ _ _ _).mp (by decide +kernel),
    (LiveConfig.accepts_iff _ _ _ rfl).mp (by decide +kernel)⟩

/-- The clauses of an accepted stream: the entries hold the checks, and the write is taken. -/
theorem witness_writtenEntries : (windowed .lane 0 1).Ready ∧
    ∃ cfg, (windowed .lane 0 1).cfg.writeEntries .lane 0 ((⟨.lane, 0, 1⟩ : Window).cut
        [1, 0, 0xFF, 0xFF, 0xFF, 0xE8, 0x03, 15]) = some cfg ∧
      cfg.accepts (windowed .lane 0 1).occupied .lane = true ∧ cfg.lane .left = ⟨[0], 1000, 15⟩ ∧
      cfg.lane .right = base.cfg.lane .right :=
  ⟨ready_windowed _ _ _, ((windowed .lane 0 1).cfg.writeEntries .lane 0 ((⟨.lane, 0, 1⟩ : Window).cut
        [1, 0, 0xFF, 0xFF, 0xFF, 0xE8, 0x03, 15])).getD base.cfg, by decide +kernel⟩

/-- What an accepted stream into a window of one entry leaves. -/
def written (t : Table) (n : Nat) (bytes : List Byte) (s : State) : State :=
  after (.writeStream bytes) { s with lp := { s.lp with window := some ⟨t, n, n⟩ } }

/-- The entry of a circuit rewritten as another kind and class. -/
def rewritten (c : CircuitId) (kind : Kind) (cls : Nat) (s : State) : State :=
  written .circuit c.val ({ s.cfg.circuits[c] with kind := kind, cls := cls, inrushFactor := 1, inrushTime := 0 } :
    CircuitCfg).bytes s

/-- C2 and the fan granted 500 of 1000 and shed, the table asking 750. -/
def shedding : State :=
  let half : Circuit := { Circuit.reset with resolved := 1000, granted := 500, shed := some 5 }
  { base with
    cc := (base.cc.set 2 half).set 3 { half with resolved := 750 }
    dt := { base.dt with res := base.dt.res.set 3 ⟨none, 750, 750⟩ } }

/-- CIRCUIT writes (R27): the class to 0 and into the sheddable range, the kind, and nothing changed. -/
theorem witness_circuitWrite : ((rewritten 2 .filament 0 shedding).cc[(2 : CircuitId)]).granted = 1000 ∧
    ((rewritten 2 .filament 0 shedding).cc[(2 : CircuitId)]).shed = none ∧
    (rewritten 2 .filament 0 shedding).isPending .shedChanged = true ∧
    (rewritten 0 .led 0 (withCircuit 0 { lit with lampOut := true })).cc[(0 : CircuitId)] = Circuit.reset ∧
    ((rewritten 1 .led 1 (withCircuit 1 { Circuit.reset with resolved := 0, trips := 2 })).cc[(1 : CircuitId)]) =
      { Circuit.reset with trips := 2 } ∧
    (rewritten 2 .led 1 base).sbu.last.made = true ∧
    (written .circuit 0 testCircuits[(0 : CircuitId)].bytes (withCircuit 0 lit)).cc[(0 : CircuitId)] = lit := by
  decide +kernel

/-- FAN writes (R127, R142): a sole step below the grant, at it and above it. -/
theorem witness_fanWrite :
    [450, 500, 600].map (fun step =>
      let r := (written .fan 0 (⟨1, #v[step, 1000, 1000, 1000], 400, 100, 0⟩ : FanCfg).bytes shedding).cc[
        (3 : CircuitId)]
      (r.resolved, r.granted, r.shed)) = [(450, 450, none), (500, 500, some 5), (600, 0, some 5)] ∧
    (written .fan 0 (⟨1, #v[450, 1000, 1000, 1000], 400, 100, 0⟩ : FanCfg).bytes shedding).isPending .shedChanged =
      true ∧ (written .fan 0 ({ factoryFan with rate := 50 } : FanCfg).bytes shedding).cc = shedding.cc := by
  decide +kernel

/-- LANE writes at an active lane (R72): members changed, priority changed, level changed; FLASH to FOLLOW in ON. -/
theorem witness_laneWrite :
    (written .lane 0 (⟨[1, 0], 900, 12⟩ : LaneCfg).bytes signalling).dt.slotsWhere
      (fun d => decide (d.source = .lane .left)) = [0, 1] ∧
    ((written .lane 0 (⟨[1, 0], 900, 12⟩ : LaneCfg).bytes signalling).dt.slots[(0 : SlotId)]).tag = 2 ∧
    ((written .lane 0 (⟨[0], 900, 15⟩ : LaneCfg).bytes signalling).dt.slots[(0 : SlotId)]).tag = 1 ∧
    ((written .lane 0 (⟨[0], 900, 15⟩ : LaneCfg).bytes signalling).dt.slots[(0 : SlotId)]).demand.map
      Demand.priority = some 15 ∧
    ((written .lane 0 (⟨[0], 300, 12⟩ : LaneCfg).bytes signalling).dt.res[(0 : CircuitId)]).resolved = 300 ∧
    (written .flash 0 ({ factoryFlash with tick := .follow } : FlashCfg).bytes signalling).fu.tick = true := by
  decide +kernel

/-- The signalling part with no evaluation made yet. -/
def unjudged : State := { signalling with sbu := { signalling.sbu with last := ⟨false, 0, 0, 0, 0, false⟩ } }

/-- Which writes ask for an evaluation (R11, R141): a LANE write that moves a class 0 winner, not one at a lane that
nothing covers, nor an unchanged BINDING entry, nor a GAUGE disabled with no warning; and the heater, which the LANE
write does not reach, stands. -/
theorem witness_writeEvaluates : unjudged.Ready ∧
    (written .lane 0 (⟨[1, 0], 900, 12⟩ : LaneCfg).bytes unjudged).sbu.last.made = true ∧
    (written .lane 1 (⟨[0], 900, 12⟩ : LaneCfg).bytes unjudged).sbu.last.made = false ∧
    (written .binding 0 testBindings[(0 : BindingId)].bytes unjudged).sbu.last.made = false ∧
    (written .gauge 0 ({ testConfig.gauges[(0 : ChannelId)] with enable := false } : GaugeCfg).bytes
      unjudged).sbu.last.made = false ∧
    (written .lane 0 (⟨[1, 0], 900, 12⟩ : LaneCfg).bytes { unjudged with cc := unjudged.cc.set 13 lit }).cc[
      (13 : CircuitId)] = lit := ⟨ready_of (by decide +kernel), by decide +kernel⟩

/-- GAUGE writes (R89, R90, R97): G0 disabled, G0 to range HIGH, G0 with its warning changed. -/
theorem witness_gaugeWrite :
    (written .gauge 0 ({ testConfig.gauges[(0 : ChannelId)] with enable := false } : GaugeCfg).bytes
      (withChannel (ticking .tracking 7))).ge[(0 : ChannelId)] = Channel.reset false 0 ∧
    (written .gauge 0 ({ testConfig.gauges[(0 : ChannelId)] with enable := false } : GaugeCfg).bytes
      (withChannel (ticking .tracking 7))).appliedPullUp 0 = none ∧
    (written .gauge 0 ({ testConfig.gauges[(0 : ChannelId)] with rangeHigh := true } : GaugeCfg).bytes
      (withChannel (ticking .tracking 7))).appliedPullUp 0 = some 1000 ∧
    (written .gauge 0 ({ testConfig.gauges[(0 : ChannelId)] with rangeHigh := true } : GaugeCfg).bytes
      (withChannel (ticking .tracking 7))).ge[(0 : ChannelId)] =
        { ticking .tracking 7 with codes := [], convertDue := some 1000020, faultRun := 0, goodRun := 0 } ∧
    (written .gauge 0 ({ testConfig.gauges[(0 : ChannelId)] with warnThr := 5 } : GaugeCfg).bytes
      (withChannel { ticking .tracking 7 with warning := true, setCount := 1 })).ge[(0 : ChannelId)] =
        ticking .tracking 7 := by decide +kernel

/-- BINDING writes (R60): B0 with a new level, its input ACTIVE and INACTIVE; disabled; unchanged. -/
theorem witness_bindingWrite :
    (written .binding 0 ({ testBindings[(0 : BindingId)] with level := 1 } : BindingCfg).bytes
      (bound 0 ⟨.true, .none⟩)).ibu.bindings[(0 : BindingId)] = ⟨.true, .demand⟩ ∧
    ((written .binding 0 ({ testBindings[(0 : BindingId)] with level := 1 } : BindingCfg).bytes
      (bound 0 ⟨.true, .none⟩)).dt.slots[(0 : SlotId)]).demand =
        some ⟨0, .binding 0, .on, some 1, 5, none, false⟩ ∧
    (written .binding 0 ({ testBindings[(0 : BindingId)] with level := 1 } : BindingCfg).bytes
      running).ibu.bindings[(0 : BindingId)] = ⟨.false, .none⟩ ∧
    (written .binding 0 ({ testBindings[(0 : BindingId)] with enable := false } : BindingCfg).bytes
      (bound 0 ⟨.true, .none⟩)).ibu.bindings[(0 : BindingId)] = ⟨.notEvaluated, .none⟩ ∧
    (written .binding 0 testBindings[(0 : BindingId)].bytes (bound 0 ⟨.true, .none⟩)).ibu.bindings[(0 : BindingId)] =
      ⟨.true, .none⟩ := by decide +kernel

/-- BUDGET writes (R131 to R133): new thresholds, a charge-lamp circuit named. -/
theorem witness_budgetWrite :
    (written .budget 0 ({ factoryBudget with low := 910 } : BudgetCfg).bytes
      (supplied .normal 7)).sbu.belowCritical = none ∧
    (written .budget 0 ({ factoryBudget with low := 910 } : BudgetCfg).bytes
      (supplied .normal 7)).sbu.atThreshold = some 7 ∧
    (written .budget 0 ({ factoryBudget with chargeThr := 6000 } : BudgetCfg).bytes
      (supplied .normal 7)).sbu.atThreshold = none ∧
    ((written .budget 0 ({ factoryBudget with lamp := some 0 } : BudgetCfg).bytes running).dt.slots[
      (0 : SlotId)]).demand = some ⟨0, .charge, .on, some 1000, 10, none, true⟩ ∧
    (written .budget 0 factoryBudget.bytes running).sbu.last.made = true := by decide +kernel

/-- LINK writes (R61, R162): S0 active LOW turns the ignition off or on, S1 active LOW edits B0; the mask alone. -/
theorem witness_linkWrite :
    (written .link 0 ({ factoryLink with activeHigh := 0xFFE } : LinkCfg).bytes running).sbu.power = .run ∧
    (written .link 0 ({ factoryLink with activeHigh := 0xFFE } : LinkCfg).bytes
      { base with ibu := running.ibu }).ibu.ignition = true ∧
    (written .link 0 ({ factoryLink with activeHigh := 0xFFE } : LinkCfg).bytes
      (bound 2 ⟨.true, .none⟩)).ibu.bindings[(2 : BindingId)] = ⟨.false, .none⟩ ∧
    (written .link 0 ({ factoryLink with activeHigh := 0xFFD } : LinkCfg).bytes
      (bound 0 ⟨.true, .none⟩)).ibu.bindings[(0 : BindingId)] = ⟨.false, .none⟩ ∧
    (written .link 0 ({ factoryLink with mask := 0 } : LinkCfg).bytes (base.raise .saveDone)).attentionLow = false ∧
    (written .link 0 factoryLink.bytes (base.raise .saveDone)).attentionLow = true := by decide +kernel

/-- ACK-STATUS at the last set of the twelve and at the first beyond them. -/
theorem witness_ackStatus : (base.raise .saveDone).Ready ∧ resultOf (.ackStatus 4096) (base.raise .saveDone) = .badParameter ∧
    (after (.ackStatus 4095) (base.raise .saveDone)).lp.pending = 0 ∧
    (after (.ackStatus 0) (base.raise .saveDone)).isPending .saveDone = true :=
  ⟨⟨ready_base.powered, ready_base.awake, ready_base.settled⟩, by decide +kernel⟩

/-- The clauses of SAVE, LOCK-STORE and ERASE-STORE. -/
theorem witness_store : base.Ready ∧ running.Ready ∧
    [resultOf .save { base with cs := { base.cs with state := .saving 0 } },
      resultOf .lockStore { base with cs := { base.cs with state := .erasing 0 } },
      resultOf .save { base with cs := { base.cs with lock := true } },
      resultOf .lockStore { base with cs := { base.cs with lock := true } },
      resultOf .eraseStore { base with cs := { base.cs with state := .saving 32 } }, resultOf .eraseStore running,
      resultOf .eraseStore { base with cs := { base.cs with lock := true } }] =
    [.busy, .busy, .storeLocked, .storeLocked, .busy, .wrongState, .ok] ∧
    (after .save base).cs.state = .saving 0 ∧ (after .lockStore base).cs.state = .saving 0 :=
  ⟨ready_base, ready_running, by decide +kernel⟩

/-- RESET while the store is at work, with the ignition's kept level ACTIVE, and on a part with no binding enabled. -/
theorem witness_reset : running.Ready ∧
    resultOf .reset { base with cs := { base.cs with state := .saving 3 } } = .busy ∧
    (after .reset { running with ibu := { running.ibu with
      inputs := Vector.replicate 12 ⟨some true, none, 2⟩ } }).ibu.ignition = true ∧
    (after .reset { base with cfg := factoryConfig }).ibu.ignition = false ∧
    (∀ n : BindingId, (factoryConfig.bindings[n]).enable = false) := ⟨ready_running, by decide +kernel⟩

/-- A RESET with the ignition ON: the charge lamp and the WHILE B0 placed under tag 1, G0 SETTLING, an evaluation made. -/
theorem test_restarted :
    let t := after .reset { bound 0 ⟨.true, .demand⟩ with
      cfg := { testConfig with budget := { testConfig.budget with lamp := some 1 } }, order := [0] }
    t.ibu.ignition = true ∧ t.sbu.power = .run ∧ t.sbu.lamp = true ∧ t.sbu.last.made = true ∧ t.fu.clock = .on ∧
    t.dt.slots[(0 : SlotId)] = ⟨1, some ⟨1, .charge, .on, some 1000, 10, none, true⟩⟩ ∧
    t.dt.slots[(1 : SlotId)] = ⟨1, some ⟨0, .binding 0, .on, some 800, 5, none, false⟩⟩ ∧
    (t.ge[(0 : ChannelId)]).state = .settling ∧ (t.ge[(0 : ChannelId)]).tickDue = some 1000100 ∧
    t.cc[(2 : CircuitId)] = Circuit.reset := by decide +kernel

/-! ### Witnesses: the circuits -/

/-- The fan at 500 in RUNNING, its measurement due. -/
def turning : Circuit := { lit with state := .running, resolved := 500, granted := 500, applied := 500 }

/-- A circuit in LOCKED that stands granted at a level. -/
def lockedAt (level : Nat) : Circuit :=
  { Circuit.reset with
    state := .locked, resolved := level, granted := level, trips := 4, lastTrip := some 7, lampOut := true }

/-- The clauses of CLEAR-FAULT. -/
theorem witness_clearFault : base.Ready ∧ resultOf (.clearFault 16) base = .badParameter ∧
    resultOf (.clearFault 15) base = .wrongKind ∧
    ((after (.clearFault 0) (withCircuit 0 { lit with lampOut := true })).cc[(0 : CircuitId)]).lampOut = false ∧
    ((after (.clearFault 0) (withCircuit 0 (lockedAt 0))).cc[(0 : CircuitId)]).state = .off ∧
    ((after (.clearFault 0) (withCircuit 0 (lockedAt 1))).cc[(0 : CircuitId)]).state = .starting ∧
    0 < base.cfg.fan.start := ⟨ready_base, by decide +kernel⟩

/-- C0 in STARTING and in RETRY-WAIT with its timer due, granted and not. -/
theorem witness_timers : base.powered = true ∧ base.evaluate = false ∧
    ((after (.inrushExpiry 0) (withCircuit 0 { lit with
      state := .starting, inrushDue := some 1000000 })).cc[(0 : CircuitId)]).state = .on ∧
    ((after (.retryExpiry 0) (withCircuit 0 { lockedAt 0 with
      state := .retryWait, retryDue := some 1000000 })).cc[(0 : CircuitId)]).state = .off ∧
    ((after (.retryExpiry 3) (withCircuit 3 { lockedAt 500 with
      state := .retryWait, retryDue := some 999999 })).cc[(3 : CircuitId)]).state = .ramp := by decide +kernel

/-- The quiet time of a circuit that runs and of one that is locked; a trip that restarts it. -/
theorem witness_quiet :
    ((after (.quietTimeExpiry 0) (withCircuit 0 { lit with trips := 2, quietDue := some 1000000 })).cc[
      (0 : CircuitId)]).trips = 0 ∧
    ((after (.quietTimeExpiry 0) (withCircuit 0 { lockedAt 0 with quietDue := some 1000000 })).cc[
      (0 : CircuitId)]).trips = 4 ∧
    ((after (.currentMeasurement 0 401) (withCircuit 0 { lit with trips := 2 })).cc[(0 : CircuitId)]).trips = 3 := by
  decide +kernel

/-- A ramp step that reaches the granted level exactly, and one that stays one short of it. -/
theorem witness_rampStep : testConfig.fan.rate = 100 ∧
    ((after (.rampStep 3) (withCircuit 3 { turning with
      state := .ramp, applied := 400, rampDue := some 1000000 })).cc[(3 : CircuitId)]).state = .running ∧
    ((after (.rampStep 3) (withCircuit 3 { turning with
      state := .ramp, applied := 399, rampDue := some 1000000 })).cc[(3 : CircuitId)]).applied = 499 := by decide +kernel

/-- C0's running limit is 400, and 2400 in STARTING; a trip at the retry limit locks. -/
theorem witness_trip :
    ((after (.currentMeasurement 0 401) (withCircuit 0 lit)).cc[(0 : CircuitId)]).state = .retryWait ∧
    ((after (.currentMeasurement 0 401) (withCircuit 0 { lit with trips := 3 })).cc[(0 : CircuitId)]).state = .locked ∧
    (after (.currentMeasurement 0 401) (withCircuit 0 { lit with trips := 3 })).isPending .circuitLocked = true ∧
    ((after (.currentMeasurement 0 5000) (withCircuit 0 { lit with state := .starting })).cc[
      (0 : CircuitId)]).retryDue = some 1000250 := by decide +kernel

/-- The clauses of a measurement on a lamp: not in ON, below level 500, agreeing, the fourteenth and the fifteenth low
reading, the second of a flashing lamp, and a second reading in one phase. -/
theorem witness_measurement :
    ((after (.currentMeasurement 0 2400) (withCircuit 0 { lit with state := .starting })).cc[
      (0 : CircuitId)]).current = 2400 ∧
    ((after (.currentMeasurement 0 0) (withCircuit 0 { lit with applied := 499, confirm := 14 })).cc[
      (0 : CircuitId)]).confirm = 14 ∧
    ((after (.currentMeasurement 0 100) (withCircuit 0 { lit with confirm := 14 })).cc[(0 : CircuitId)]).confirm = 0 ∧
    ((after (.currentMeasurement 0 99) (withCircuit 0 { lit with confirm := 13 })).cc[(0 : CircuitId)]).confirm = 14 ∧
    ((after (.currentMeasurement 0 99) (withCircuit 0 { lit with confirm := 14 })).cc[
      (0 : CircuitId)]).lampOut = true ∧
    ((after (.currentMeasurement 0 99) (withCircuit 0 { lit with confirm := 1, flashing := true })).cc[
      (0 : CircuitId)]).lampOut = true ∧
    ((after (.currentMeasurement 0 99) (withCircuit 0 { lit with
      confirm := 1, flashing := true, sampled := true })).cc[(0 : CircuitId)]).confirm = 1 := by decide +kernel

/-- A circuit in LOCKED, a fan in RETRY-WAIT, and a lamp whose moment has not come are not measured. -/
theorem witness_unmeasured :
    after (.currentMeasurement 0 4095) (withCircuit 0 { lockedAt 0 with measureDue := some 0 }) =
      withCircuit 0 { lockedAt 0 with measureDue := some 0 } ∧
    after (.currentMeasurement 3 4095) (withCircuit 3 { lockedAt 500 with state := .retryWait }) =
      withCircuit 3 { lockedAt 500 with state := .retryWait } ∧
    after (.currentMeasurement 0 401) (withCircuit 0 { lit with measureDue := some 1000001 }) =
      withCircuit 0 { lit with measureDue := some 1000001 } ∧
    Circuit.Lawful testConfig.circuits[(0 : CircuitId)] (lockedAt 0) :=
  ⟨by decide +kernel, by decide +kernel, by decide +kernel, by constructor <;> decide⟩

/-- A measurement of the heater G0 drives, recorded and not judged. -/
theorem witness_measurementGauge : (testConfig.circuits[(13 : CircuitId)]).kind = .gauge ∧
    ((after (.currentMeasurement 13 200) (withCircuit 13 lit)).cc[(13 : CircuitId)]).current = 200 := by decide +kernel

/-- The base state with a stall current of 300 and the fan's record given. -/
def stalling (r : Circuit) : State :=
  { withCircuit 3 r with cfg := { testConfig with fan := { testConfig.fan with stall := 300 } } }

/-- The stall test: at the stall current, one above it, the twenty-fifth reading, and below the start level. -/
theorem witness_stall :
    ((after (.currentMeasurement 3 300) (stalling { turning with stall := 24 })).cc[(3 : CircuitId)]).stall = 0 ∧
    ((after (.currentMeasurement 3 301) (stalling { turning with stall := 23 })).cc[(3 : CircuitId)]).stall = 24 ∧
    ((after (.currentMeasurement 3 301) (stalling { turning with stall := 24 })).cc[(3 : CircuitId)]).retryDue =
      some 1003000 ∧
    ((after (.currentMeasurement 3 301) (stalling { turning with stall := 24, trips := 1 })).cc[
      (3 : CircuitId)]).state = .locked ∧
    ((after (.currentMeasurement 3 301) (stalling { turning with stall := 24, applied := 399 })).cc[
      (3 : CircuitId)]).stall = 0 := by decide +kernel

/-! ### Witnesses: direction signals -/

theorem ready_signalling : signalling.Ready := ready_of (by decide +kernel)

/-- No lane stands on an empty table with no request. -/
theorem lanesStand_base : base.LanesStand := by
  have hs : ∀ slot : SlotId, (base.dt.slots[slot]).demand = none := by decide +kernel
  have hc : ∀ side, base.fu.covers side = false := by intro side; cases side <;> decide +kernel
  constructor
  · intro side c
    rw [hc]
    simp only [Bool.false_eq_true, false_and, iff_false]
    rintro ⟨slot, d, h, -⟩
    rw [hs] at h
    exact nomatch h
  · intro slot d side h
    rw [hs] at h
    exact nomatch h

/-- The clauses of FLASH: out of range, from IDLE free and synced onto a low line, onto a running clock. -/
theorem witness_flash : base.Ready ∧ resultOf (.flash 3 0) base = .badParameter ∧
    resultOf (.flash 2 16) base = .badParameter ∧ (after (.flash 0 15) base).fu.clock = .on ∧
    (after (.flash 1 0) { base with
      fu := { base.fu with wireLow := true }
      cfg := { base.cfg with flash := { base.cfg.flash with sync := true } } }).fu.clock = .waitSync ∧
    (after (.flash 2 0) signalling).fu.clock = .on ∧ signalling.fu.clock ≠ .idle := ⟨ready_base, by decide +kernel⟩

/-- The room for the lanes, also where lane demands stand and 56 others; the member of a lane that gains coverage, and of
one that loses it, resolved anew; and a circuit that no lane demand reaches. -/
theorem witness_flashLanes : base.dt.Lawful ∧ base.LanesStand ∧ (∀ side, (base.cfg.lane side).members.length ≤ 4) ∧
    8 ≤ (allSlots.filter (fun i => ((base.dt.slots[i]).demand).all (fun d =>
      decide (d.source = .lane .left ∨ d.source = .lane .right)))).length ∧
    8 = (allSlots.filter (fun i => (((withDemands (List.replicate 8 ⟨0, .lane .left, .followLane, none, 12, none, false⟩ ++
      List.replicate 56 ⟨1, .test, .on, none, 0, none, false⟩) base).dt.slots[i]).demand).all (fun d =>
        decide (d.source = .lane .left ∨ d.source = .lane .right)))).length ∧
    base.fu.covers .left ≠ signalling.fu.covers .left ∧ (0 : CircuitId) ∈ (base.cfg.lane .left).members ∧
    (base.cfg.circuits[(0 : CircuitId)]).kind.takesDemands = true ∧
    signalling.dt.res[(0 : CircuitId)] = signalling.resolution 0 ∧ (signalling.dt.res[(0 : CircuitId)]).resolved = 900 ∧
    ((after .flashStop signalling).dt.res[(0 : CircuitId)]).resolved = 0 ∧ base.winnerFollows 2 = false ∧
    (∀ slot : SlotId, ((signalling.dt.slots[slot]).demand).all (fun d => decide (d.circuit = 0)) = true) :=
  ⟨lawful_base, lanesStand_base, by intro side; cases side <;> decide +kernel, by decide +kernel⟩

/-- FLASH-STOP with no request, with the host's alone, and with a binding's beside it. -/
theorem witness_flashStop : base.Ready ∧ signalling.Ready ∧ base.fu.host = none ∧ signalling.fu.host ≠ none ∧
    (∀ n : BindingId, signalling.fu.requests[n] = none) ∧ (after .flashStop signalling).fu.clock = .idle ∧
    (signalling.placeRequest 1 .left).fu.requests[(1 : BindingId)] ≠ none ∧
    (after .flashStop (signalling.placeRequest 1 .left)).fu.clock = .on :=
  ⟨ready_base, ready_signalling, by decide +kernel⟩

/-- LAMP-TEST at the ends of its range. -/
theorem witness_lampTest : base.Ready ∧ base.dt.Lawful ∧ resultOf (.lampTest 0) base = .badParameter ∧
    resultOf (.lampTest 51) base = .badParameter ∧ resultOf (.lampTest 1) base = .ok ∧
    ((after (.lampTest 50) base).dt.slots[(0 : SlotId)]).demand = some ⟨0, .test, .on, some 1000, 14, some 1005000, false⟩ ∧
    16 ≤ (allSlots.filter (fun i =>
      ((base.dt.slots[i]).demand).all (fun d => decide (d.source = .test)))).length ∧
    ((after (.lampTest 50) (after (.lampTest 7) base)).dt.slotsWhere (fun d => decide (d.source = .test))) = [0] ∧
    (base.cfg.circuits[(0 : CircuitId)]).kind.takesDemands = true ∧
    ((after (.lampTest 50) base).dt.res[(0 : CircuitId)]).resolved = 1000 ∧
    (∀ slot : SlotId, (base.dt.slots[slot]).demand = none) := ⟨ready_base, lawful_base, by decide +kernel⟩

/-- The ON phase by its timer and by the line, with a count of 2 and a count of 1. -/
theorem witness_onPhase : signalling.powered = true ∧ signalling.evaluate = false ∧ signalling.fu.clock = .on ∧
    signalling.fu.host = some ⟨.left, some 2⟩ ∧
    (after .onPhaseExpiry { signalling with now := 1000350 }).fu.host = some ⟨.left, some 1⟩ ∧
    (after .syncLineFall (synced .on false)).fu.clock = .off ∧
    (after .syncLineFall { synced .on false with
      fu := { (synced .on false).fu with host := some ⟨.left, some 1⟩ } }).fu.clock = .idle ∧
    (after .onPhaseExpiry { (signalling.placeRequest 1 .left) with
      now := 1000350, fu := { (signalling.placeRequest 1 .left).fu with host := some ⟨.left, some 1⟩ } }).fu.clock =
        .off := by decide +kernel

/-- The OFF phase free, synced onto a high and a low line; the rise, a rise and a fall that only move the wire; the
timeout; the end of a pulse. -/
theorem witness_offPhase :
    (after .offPhaseExpiry { signalling with
      now := 1000350, fu := { signalling.fu with clock := .off } }).fu.clock = .on ∧
    (after .offPhaseExpiry (synced .off false)).fu.clock = .on ∧
    (after .offPhaseExpiry (synced .off true)).fu.clock = .waitSync ∧
    (after .syncLineRise (synced .waitSync true)).fu.clock = .on ∧
    (after .syncLineRise (synced .off true)).fu.clock = .off ∧
    (after .syncLineFall (synced .off false)).fu.wireLow = true ∧
    (after .waitSyncTimeout (synced .waitSync true)).fu.abandoned = true ∧
    (after .tickPulseEnd { base with fu := { base.fu with tick := true, tickDue := some 1000000 } }).fu.tick = false := by
  decide +kernel

/-! ### Witnesses: inputs, bindings, holds -/

/-- The part with its next sense sample due and every input in one condition. -/
def sensed (x : SenseInput) (s : State) : State :=
  { s with ibu := { s.ibu with inputs := Vector.replicate 12 x, sampleDue := some 1000000 } }

/-- A known input that agrees, disagrees for the third and for the fourth time; an UNKNOWN one at its first, third and
fourth like sample; the ignition coming on and going off. -/
theorem witness_senseSample : base.powered = true ∧ base.evaluate = false ∧ base.cfg.link.debounce = 4 ∧
    ((after (.senseSample 0) (sensed ⟨some false, none, 3⟩ base)).ibu.inputs[(5 : InputId)]) = ⟨some false, none, 0⟩ ∧
    ((after (.senseSample 0x020) (sensed ⟨some false, none, 2⟩ base)).ibu.inputs[(5 : InputId)]) =
      ⟨some false, none, 3⟩ ∧
    ((after (.senseSample 0x020) (sensed ⟨some false, none, 3⟩ base)).ibu.inputs[(5 : InputId)]) =
      ⟨some true, none, 0⟩ ∧
    ((after (.senseSample 0) (sensed ⟨none, none, 0⟩ base)).ibu.inputs[(5 : InputId)]) = ⟨none, some false, 1⟩ ∧
    ((after (.senseSample 0) (sensed ⟨none, some true, 3⟩ base)).ibu.inputs[(5 : InputId)]) = ⟨none, some false, 1⟩ ∧
    ((after (.senseSample 0) (sensed ⟨none, some false, 3⟩ base)).ibu.inputs[(5 : InputId)]) =
      ⟨some false, none, 0⟩ ∧
    (after (.senseSample 1) (sensed ⟨some false, none, 3⟩ base)).sbu.power = .run ∧
    ((after (.senseSample 1) (sensed ⟨some false, none, 3⟩ base)).ge[(0 : ChannelId)]).state = .settling ∧
    (after (.senseSample 0xFFE) (sensed ⟨some true, none, 3⟩ running)).sbu.power = .parked := by decide +kernel

/-- The bindings at a sample: S1 becomes ACTIVE, so B0 is evaluated and B1 is not; the gated B2 at ignition off and, with
its door open, at ignition on. -/
theorem witness_senseBindings :
    (after (.senseSample 0x002) (sensed ⟨some false, none, 3⟩ base)).ibu.bindings[(0 : BindingId)] = ⟨.true, .demand⟩ ∧
    (after (.senseSample 0x002) (sensed ⟨some false, none, 3⟩ base)).ibu.bindings[(1 : BindingId)] =
      ⟨.notEvaluated, .none⟩ ∧
    (after (.senseSample 0x004) (sensed ⟨some false, none, 3⟩ base)).fu.requests[(1 : BindingId)] = some .left ∧
    (after (.senseSample 0xFFE) (sensed ⟨some true, none, 3⟩ (bound 2 ⟨.true, .demand⟩))).ibu.bindings[
      (2 : BindingId)] = ⟨.false, .none⟩ ∧
    (after (.senseSample 0x009) { sensed ⟨some false, none, 3⟩ base with ibu :=
      { (sensed ⟨some false, none, 3⟩ base).ibu with bindings := base.ibu.bindings.set 2 ⟨.false, .none⟩ } }).ibu.bindings[
        (2 : BindingId)] = ⟨.true, .demand⟩ := by decide +kernel

/-- B0 places at a sample: the record of R53 in slot 0 under tag 1, in its list, resolved. -/
theorem witness_samplePlaces :
    let s := sensed ⟨some false, none, 3⟩ base
    let t := after (.senseSample 0x002) s
    s.ActsAt t 0 ∧ s.dt.keyed (.binding 0) 0 = none ∧ (t.ibu.bindings[(0 : BindingId)]).held = .demand ∧
    t.dt.slots[(0 : SlotId)] = ⟨1, some ⟨0, .binding 0, .on, some 800, 5, none, false⟩⟩ ∧
    t.dt.lists[(0 : CircuitId)] = [0] ∧ (t.dt.res[(0 : CircuitId)]).resolved = 800 := by
  unfold State.ActsAt; decide +kernel

/-- The part in RUN, S1 to S3 sensed, with the demand of one binding standing on a circuit. -/
def binding (n : BindingId) (c : CircuitId) (cond : Condition) (x : SenseInput) : State :=
  sensed x (withDemands [⟨c, .binding n, .on, some 500, 4, none, (testConfig.bindings[n]).gated⟩] (bound n ⟨cond, .demand⟩))

/-- The TIMED B2 refreshes at a sample, under its handle; the WHILE B0 retires, its slot empty under its tag. -/
theorem witness_sampleMoves :
    (binding 2 1 .false ⟨some false, none, 3⟩).ActsAt
      (after (.senseSample 0x008) { binding 2 1 .false ⟨some false, none, 3⟩ with
        cfg := { testConfig with link := { testConfig.link with ignition := 4, activeHigh := 0xFEF } } }) 2 ∧
    (after (.senseSample 0x008) { binding 2 1 .false ⟨some false, none, 3⟩ with
        cfg := { testConfig with link := { testConfig.link with ignition := 4, activeHigh := 0xFEF } } }).dt.slots[
      (0 : SlotId)] = ⟨1, some ⟨1, .binding 2, .on, some 500, 4, some 1001000, true⟩⟩ ∧
    (after (.senseSample 0xFFD) (binding 0 0 .true ⟨some true, none, 3⟩)).dt.slots[(0 : SlotId)] = ⟨1, none⟩ ∧
    (after (.senseSample 0xFFD) (binding 0 0 .true ⟨some true, none, 3⟩)).ibu.bindings[(0 : BindingId)] =
      ⟨.false, .none⟩ ∧
    (after (.senseSample 0xFFD) (binding 0 0 .true ⟨some true, none, 3⟩)).ibu.ignition = true := by
  unfold State.ActsAt; decide +kernel

/-- B1 starts the clock and LEFT at a sample, and ends both at another. -/
theorem witness_sampleClock :
    let s := after (.senseSample 0x004) (sensed ⟨some false, none, 3⟩ base)
    let t := after (.senseSample 0xFFB) (sensed ⟨some true, none, 3⟩ s)
    base.fu.clock = .idle ∧ s.fu.clock = .on ∧ s.fu.phaseDue = some 1000350 ∧
    s.dt.slots[(0 : SlotId)] = ⟨1, some ⟨0, .lane .left, .followLane, none, 12, none, false⟩⟩ ∧
    t.fu.requests[(1 : BindingId)] = none ∧ t.fu.clock = .idle ∧ t.dt.slots[(0 : SlotId)] = ⟨1, none⟩ := by
  decide +kernel

/-- An edge of a WHILE, of a FLASH-WHILE and of a TIMED binding; a first evaluation of TIMED; a condition that stands;
a disabled binding; an unknown input; a fall. -/
theorem witness_bindings : (bound 0 ⟨.false, .none⟩).Known testConfig.bindings[(0 : BindingId)] ∧
    ((bound 0 ⟨.false, .none⟩).evaluateBinding 0).ibu.bindings[(0 : BindingId)] = ⟨.true, .demand⟩ ∧
    ((bound 1 ⟨.false, .none⟩).evaluateBinding 1).fu.requests[(1 : BindingId)] = some .left ∧
    ((((bound 2 ⟨.false, .none⟩).evaluateBinding 2).dt.slots[(0 : SlotId)]).demand) =
      some ⟨1, .binding 2, .on, some 500, 4, some 1001000, true⟩ ∧
    ((bound 2 ⟨.notEvaluated, .none⟩).evaluateBinding 2).ibu.bindings[(2 : BindingId)] = ⟨.true, .none⟩ ∧
    (bound 0 ⟨.true, .demand⟩).evaluateBinding 0 = bound 0 ⟨.true, .demand⟩ ∧
    (bound 3 ⟨.notEvaluated, .none⟩).evaluateBinding 3 = bound 3 ⟨.notEvaluated, .none⟩ ∧
    base.evaluateBinding 0 = base ∧
    (({ bound 0 ⟨.true, .demand⟩ with ibu := { (bound 0 ⟨.true, .demand⟩).ibu with
      inputs := running.ibu.inputs } } : State).evaluateBinding 0).ibu.bindings[(0 : BindingId)] =
        ⟨.false, .none⟩ := by
  refine ⟨⟨?_, ?_, ?_⟩, ?_⟩
  · decide +kernel
  · intro i h; revert h; revert i; decide +kernel
  · intro h; revert h; decide +kernel
  · decide +kernel

/-- One hold due, one at the next millisecond, one demand without a hold; a binding's and the host's. -/
def held : State :=
  withDemands [hostDemand 0 (some 1000000), hostDemand 0 (some 1000001),
    ⟨1, .binding 2, .on, some 500, 4, some 999999, true⟩, hostDemand 1 none]
    { base with ibu := { base.ibu with bindings := base.ibu.bindings.set 2 ⟨.true, .demand⟩ } }

/-- HOLD_EXPIRY with holds due and with none, awake and asleep. -/
theorem witness_holdExpiry : held.powered = true ∧ held.evaluate = false ∧
    (after .holdExpiry held).dt.slotsWhere (fun _ => true) = [1, 3] ∧
    (after .holdExpiry held).isPending .demandExpired = true ∧
    (after .holdExpiry held).ibu.bindings[(2 : BindingId)] = ⟨.true, .none⟩ ∧ after .holdExpiry base = base ∧
    (after .holdExpiry (withDemands [⟨0, .host, .off, none, 9, some 1000000, false⟩, hostDemand 0 none]
      sleeping)).sbu.power = .parked ∧
    (after .holdExpiry (withDemands [⟨0, .host, .off, none, 9, some 1000000, false⟩] sleeping)).sbu.power = .asleep := by
  decide +kernel

/-! ### Witnesses: gauges -/

/-- The clauses of GAUGE-DIRECT and GAUGE-RELEASE. -/
theorem witness_direct : running.Ready ∧
    [resultOf (.gaugeDirect 3 0) running, resultOf (.gaugeRelease 3) running, resultOf (.gaugeDirect 0 0) base,
      resultOf (.gaugeDirect 2 0) running, resultOf (.gaugeDirect 0 0) running, resultOf (.gaugeRelease 0) running,
      resultOf (.gaugeDirect 0 0) { running with ge := running.ge.set 0 (ticking .settling 0) },
      resultOf (.gaugeDirect 0 0) { running with ge := running.ge.set 0 (ticking .tracking 0) },
      resultOf (.gaugeDirect 0 1001) { running with ge := running.ge.set 0 (ticking .faultHold 0) },
      resultOf (.gaugeDirect 0 1001) { running with ge := running.ge.set 0 (ticking .rest 0) },
      resultOf (.gaugeDirect 0 1001) { running with ge := running.ge.set 0 (ticking .direct 0) },
      resultOf (.gaugeRelease 0) { running with ge := running.ge.set 0 (ticking .direct 0) }] =
    [.badParameter, .badParameter, .wrongState, .wrongState, .wrongState, .wrongState, .wrongState, .ok, .ok, .ok, .ok,
      .ok] := ⟨ready_running, by decide +kernel⟩

/-- A conversion not due, the fourth and the fifth. -/
theorem witness_conversion : base.powered = true ∧ base.evaluate = false ∧ after (.senderConversion 0 4095) base = base ∧
    ((after (.senderConversion 0 4095) (withChannel { ticking .off 7 with
      codes := [1, 2, 3], convertDue := some 1000000 })).ge[(0 : ChannelId)]).codes = [1, 2, 3, 4095] ∧
    ((after (.senderConversion 0 0) (withChannel { ticking .off 7 with
      codes := [1, 2, 3, 4], convertDue := some 1000000 })).ge[(0 : ChannelId)]).codes = [2, 3, 4, 0] := by decide +kernel

/-- The pull-ups: range LOW and HIGH awake, none asleep, without power, or on a disabled channel's input. -/
theorem witness_pullUp : base.appliedPullUp 0 = some 100 ∧ base.senderPullUp 0 = some 100 ∧ base.senderPullUp 1 = none ∧
    base.appliedPullUp 1 = none ∧ sleeping.senderPullUp 0 = none ∧
    (after .powerLossOrResetAsserted base).senderPullUp 0 = none ∧
    ({ base with cfg := { testConfig with gauges := testConfig.gauges.set 0 { testConfig.gauges[(0 : ChannelId)] with
      rangeHigh := true } } } : State).senderPullUp 0 = some 1000 := by decide +kernel

/-- The number of codes averaged is recorded with N, and a skipped tick leaves both. -/
theorem test_averaged :
    ((after (.gaugeTick 0) (withChannel { ticking .tracking 7 with codes := [1003, 1006] })).ge[
      (0 : ChannelId)]).averaged = 2 ∧
    ((after (.gaugeTick 0) (withChannel { ticking .tracking 7 with codes := [1003, 1006] })).ge[
      (0 : ChannelId)]).code = 1004 ∧
    ((after (.gaugeTick 0) (withChannel { ticking .tracking 7 with codes := [], averaged := 2 })).ge[
      (0 : ChannelId)]).averaged = 2 := by decide +kernel

/-- A skipped tick; good ticks at the last good code on either side, in SETTLING, TRACKING and DIRECT. -/
theorem witness_goodTick :
    (after (.gaugeTick 0) (withChannel { ticking .tracking 7 with codes := [] })).ge[(0 : ChannelId)] =
      { ticking .tracking 7 with codes := [], tickDue := some 1000100 } ∧
    ((after (.gaugeTick 0) (withChannel (ticking .settling 21))).ge[(0 : ChannelId)]).state = .tracking ∧
    ((after (.gaugeTick 0) (withChannel (ticking .tracking 4034))).ge[(0 : ChannelId)]).faultRun = 0 ∧
    ((after (.gaugeTick 0) (withChannel { ticking .direct 0 with directReading := some 500 })).ge[
      (0 : ChannelId)]).filter = 8000 := by decide +kernel

/-- Faulted ticks at the first faulted code on either side: the fourth and the fifth, in SETTLING and TRACKING; the end
of the hold; the fifth good tick. -/
theorem witness_faultedTick :
    ((after (.gaugeTick 0) (withChannel { ticking .tracking 20 with faultRun := 3 })).ge[(0 : ChannelId)]).state =
      .tracking ∧
    ((after (.gaugeTick 0) (withChannel (ticking .tracking 4035))).ge[(0 : ChannelId)]).state = .faultHold ∧
    ((after (.gaugeTick 0) (withChannel { ticking .settling 0 with faultRun := 3 })).ge[(0 : ChannelId)]).state =
      .settling ∧
    ((after (.gaugeTick 0) (withChannel (ticking .settling 4095))).ge[(0 : ChannelId)]).state = .faultHold ∧
    (after (.gaugeTick 0) (withChannel (ticking .settling 4095))).isPending .senderFault = true ∧
    ((after (.gaugeTick 0) (withChannel (ticking .faultHold 0))).ge[(0 : ChannelId)]).state = .faultHold ∧
    ((after (.gaugeTick 0) (withChannel { ticking .faultHold 0 with hold := 49 })).ge[(0 : ChannelId)]).state = .rest ∧
    ((after (.gaugeTick 0) (withChannel (ticking .faultHold 2000))).ge[(0 : ChannelId)]).state = .tracking ∧
    ((after (.gaugeTick 0) (withChannel { ticking .rest 2000 with goodRun := 3 })).ge[(0 : ChannelId)]).goodRun = 4 ∧
    ((after (.gaugeTick 0) (withChannel (ticking .rest 2000))).ge[(0 : ChannelId)]).state = .tracking := by
  decide +kernel

/-- The fifth faulted tick of G0, with a hold time of 0. -/
def atOnce (state : GaugeState) : State :=
  after (.gaugeTick 0) { withChannel (ticking state 0) with
    cfg := { testConfig with gauges := testConfig.gauges.set 0 { testConfig.gauges[(0 : ChannelId)] with
      holdTime := 0 } } }

/-- GAUGE-UNDERSUPPLY (R99) from a supply of 0: at the good tick of SETTLING, in DIRECT, in FAULT-HOLD and at the fifth
good tick in REST; not at a tick that stays in REST, nor at the one that enters it. -/
theorem test_undersupplyRaised :
    [ticking .settling 2000, ticking .direct 2000, ticking .faultHold 0, ticking .rest 2000,
      ticking .rest 0, { ticking .faultHold 0 with hold := 49 }].map (fun ch =>
        (after (.gaugeTick 0) (withChannel ch)).isPending .gaugeUndersupply) =
      [true, true, true, true, false, false] := by decide +kernel

/-- A faulted sender with a hold time of 0 rests at once, with stages 6 to 8 recorded and GAUGE-UNDERSUPPLY raised from
TRACKING (the supply reads 0), and neither from SETTLING. -/
theorem witness_faultedTickAtOnce :
    (let t := atOnce .tracking
     let ch := t.ge[(0 : ChannelId)]
     ch.state = GaugeState.rest ∧ ch.filter = 0 ∧ ch.heater = 500 ∧ ch.target = 2500 ∧ ch.duty = 0 ∧
       ch.undersupply = false ∧ t.isPending .gaugeUndersupply = true) ∧
    (let t := atOnce .settling
     let ch := t.ge[(0 : ChannelId)]
     ch.state = GaugeState.rest ∧ ch.filter = 0 ∧ ch.heater = 0 ∧ ch.target = 0 ∧ ch.duty = 0 ∧
       ch.undersupply = false ∧ t.isPending .gaugeUndersupply = false) := by decide +kernel

/-- The warning of G0, below 100 with a delay of 2: not met, met once, confirmed; and cleared in the same way. -/
theorem witness_warning :
    (((withChannel { ticking .tracking 0 with filter := 1600, setCount := 1 }).evaluateWarning 0).ge[
      (0 : ChannelId)]).setCount = 0 ∧
    (((withChannel { ticking .tracking 0 with filter := 1591 }).evaluateWarning 0).ge[(0 : ChannelId)]).setCount = 1 ∧
    (((withChannel { ticking .tracking 0 with filter := 1591, setCount := 1 }).evaluateWarning 0).ge[
      (0 : ChannelId)]).warning = true ∧
    (((withChannel { ticking .tracking 0 with filter := 1591, setCount := 1 }).evaluateWarning 0).dt.slots[
      (0 : SlotId)]).demand = some ⟨1, .warning 0, .on, some 1000, 11, none, true⟩ ∧
    (((withChannel { ticking .tracking 0 with filter := 1600, warning := true, clearCount := 1 }).evaluateWarning 0).ge[
      (0 : ChannelId)]).clearCount = 0 ∧
    (((withChannel { ticking .tracking 0 with filter := 1616, warning := true }).evaluateWarning 0).ge[
      (0 : ChannelId)]).clearCount = 1 ∧
    (((withChannel { ticking .tracking 0 with filter := 1616, warning := true, clearCount := 1 }).evaluateWarning 0).ge[
      (0 : ChannelId)]).warning = false ∧ (testConfig.gauges[(1 : ChannelId)]).warnEnable = false := by decide +kernel

/-- The thresholds at both ends of their ranges, and a resistance at and below saturation. -/
theorem witness_stages :
    (900 ≤ (factoryGauge 0 13).openThr ∧ (factoryGauge 0 13).openThr ≤ 999 ∧ (factoryGauge 0 13).shortThr ≤ 100) ∧
    codeOpen { factoryGauge 0 13 with openThr := 900 } 3687 = true ∧
    codeOpen { factoryGauge 0 13 with openThr := 999 } 4091 = false ∧
    codeShort { factoryGauge 0 13 with shortThr := 0 } 0 = true ∧
    codeShort { factoryGauge 0 13 with shortThr := 100 } 410 = false ∧
    resistanceOf (factoryGauge 0 13) 4095 = 16383 ∧ resistanceOf (factoryGauge 0 13) 0 = 0 ∧
    targetVoltage 12000 1000 = 12000 ∧ targetVoltage 2000 0 = 0 := by decide +kernel

/-- A well-formed curve with values before, in and beyond it. -/
theorem witness_curve : curveWellFormed fuelSender = true ∧ fuelSender.head? = some ⟨20, 1000⟩ ∧
    fuelSender.getLast? = some ⟨360, 0⟩ ∧ 19 < 20 ∧ fuelSender[1]? = some ⟨120, 700⟩ ∧
    fuelSender[2]? = some ⟨240, 400⟩ ∧ (∀ a ∈ fuelSender, a.y ≤ 1000) := by decide

/-- The damping at both ends, toward a target above, at and below the filter. -/
theorem witness_filter : [0, 255].map (fun d => [0, 8000, 16000].map (fun f => filterNext d f 500)) =
    [[8000, 8000, 8000], [31, 8000, 15969]] := by decide +kernel

/-- The default steps are ascending and above 0; C3 is the fan and stands in step. -/
theorem witness_fanSteps : factoryFan.stepsInUse.Pairwise (· < ·) ∧ (∀ st ∈ factoryFan.stepsInUse, 0 < st) ∧
    factoryFan.stepsInUse ≠ [] ∧ (base.cfg.circuits[(3 : CircuitId)]).kind = .motor ∧ base.InStep 3 :=
  ⟨by decide +kernel, by decide +kernel, by decide +kernel, by decide +kernel, ⟨by decide +kernel, by decide +kernel⟩⟩

/-! ### Witnesses: supply and budget -/

/-- A below-critical run at 1980 ms and at 2000 ms; the exit of LOW and of CRITICAL; the charge threshold at 500 ms. -/
theorem witness_supplySample : base.powered = true ∧ base.evaluate = false ∧
    (after (.supplySample 5000 0) (supplied .normal 998001)).sbu.state = .normal ∧
    (after (.supplySample 5000 0) (supplied .normal 998000)).sbu.state = .critical ∧
    (after (.supplySample 5000 0) (supplied .normal 998000)).isPending .supplyLow = true ∧
    (after (.supplySample 20001 0) { supplied .critical 0 with sbu := { (supplied .critical 0).sbu with
      aboveLow := some 998000 } }).sbu.state = .normal ∧
    (after (.supplySample 6300 5800) (supplied .normal 999500)).sbu.charging = true ∧
    (after (.supplySample 6300 5799) (supplied .normal 999500)).sbu.charging = false ∧
    (after (.supplySample 6300 0) { supplied .low 0 with sbu := { (supplied .low 0).sbu with
      charging := true, belowThreshold := some 999500 } }).isPending .notCharging = true := by decide +kernel

/-- The part in RUN with the charge lamp on C0, 500 ms into a run that ends CHARGING, and into one that begins it with
the lamp's demand standing in slot 0. -/
def lampOn (charging : Bool) : State :=
  let s : State := { running with
    cfg := { testConfig with budget := { testConfig.budget with lamp := some 0 } }
    sbu := { running.sbu with
      charging := charging, lamp := !charging, sampleDue := some 1000000
      atThreshold := some 999500, belowThreshold := some 999500 } }
  if charging then s else withDemands [⟨0, .charge, .on, some 1000, 10, none, true⟩] s

/-- The charge lamp is placed when the dynamo stops charging, and retired when it charges. -/
theorem witness_chargeLamp : (lampOn true).dt.freeSlot = some 0 ∧ (lampOn true).dt.keyed .charge 0 = none ∧
    ((after (.supplySample 6300 0) (lampOn true)).dt.slots[(0 : SlotId)]).demand =
      some ⟨0, .charge, .on, some 1000, 10, none, true⟩ ∧
    (lampOn false).dt.keyed .charge 0 = some (0, ⟨0, .charge, .on, some 1000, 10, none, true⟩) ∧
    (after (.supplySample 6300 7000) (lampOn false)).dt.slots[(0 : SlotId)] = ⟨1, none⟩ := by decide +kernel

/-- The evaluation due, with C2 and the fan asking: C2's need of 300 fits under 1200, and with it the fan does not. -/
def asking : State :=
  { running with
    sbu := { running.sbu with evaluateDue := some 1000000 }
    cfg := { testConfig with budget := { testConfig.budget with battery := 700 } }
    cc := (running.cc.set 2 { Circuit.reset with resolved := 1000 }).set 3 { Circuit.reset with resolved := 1000 } }

/-- The pass grants C2 whole and turns the fan down to the step that fits. -/
theorem witness_evaluation : asking.powered = true ∧ asking.evaluate = false ∧ asking.sbu.power ≠ .asleep ∧
    ((after .evaluationTimerExpiry asking).cc[(2 : CircuitId)]).granted = 1000 ∧
    ((after .evaluationTimerExpiry asking).cc[(3 : CircuitId)]).granted = 750 ∧
    ((after .evaluationTimerExpiry asking).cc[(3 : CircuitId)]).shed = some 1000000 ∧
    (after .evaluationTimerExpiry asking).sbu.last = ⟨true, 700, 0, 700, 600, false⟩ ∧
    (after .evaluationTimerExpiry asking).isPending .shedChanged = true := by decide +kernel

/-- R139 at the edge: the fan's 750 passes with the margin to the last 10 mA of the allowance, and at one less it is
turned down to 500. -/
theorem test_evaluationEdge : [650, 649].map (fun a =>
    ((after .evaluationTimerExpiry { asking with cfg := { asking.cfg with budget := { asking.cfg.budget with
      battery := a } } }).cc[(3 : CircuitId)]).granted) = [750, 500] := by decide +kernel

/-- The sleep timer at 29 999 ms and at 30 000 ms, and in RUN. -/
theorem witness_sleep : after .sleepTimerExpiry { base with now := 1029999 } = { base with now := 1029999 } ∧
    (after .sleepTimerExpiry { base with now := 1030000 }).sbu.power = .asleep ∧
    after .sleepTimerExpiry running = running := by decide +kernel

/-! ### Witnesses: the store at work -/

/-- A save at a page over a buffer of one byte. -/
def saving (page : Nat) : State :=
  { base with cs := { base.cs with state := .saving page, buffer := some [(1, 0x01), (32, 0x07)] } }

/-- The first and the last page, a cell that does not take, and a verify that fails. -/
theorem witness_save : (after (.savePageProgrammed []) (saving 0)).cs.image = [(1, 0x01)] ∧
    (after (.savePageProgrammed [(0, 0x05)]) (saving 1)).cs.image = [(32, 0x05)] ∧
    (after (.savePageProgrammed []) (saving 31)).cs.state = .saving 32 ∧
    (saving 32).cs.image.read 1 ≠ (0x01 : Byte) ∧ after .saveVerifyEnd (saving 31) = saving 31 := by decide +kernel

theorem lawful_saving (page : Nat) : (saving page).ImageLawful := by
  refine ⟨⟨List.Pairwise.nil, fun p h => nomatch h⟩, ?_⟩
  intro b h
  have : [((1 : Nat), (0x01 : Byte)), (32, 0x07)] = b := Option.some.inj h
  subst this
  decide

/-- An image that agrees with its buffer, which carries its own CRC. -/
theorem witness_saveDone : factoryConfig.stored ∧ (∀ a : Nat, (imageOf true factoryConfig).read a =
      (imageOf true factoryConfig).read a) ∧
    crcOf ((imageOf true factoryConfig).bytes 0 1022) = storedCrc (imageOf true factoryConfig) :=
  ⟨stored_factory, fun _ => rfl, storedCrc_imageOf (by decide +kernel)⟩

/-- The first and the last page of an erase. -/
theorem witness_erase :
    (after (.erasePageErased []) { base with cs := { base.cs with
      image := [(0, 0x01), (33, 0x02)], state := .erasing 0 } }).cs = ⟨[(33, 0x02)], .erasing 1, none, false⟩ ∧
    (after (.erasePageErased []) { base with cs := { base.cs with state := .erasing 31, lock := true } }).cs =
      ⟨[], .idle, none, false⟩ ∧
    (after (.erasePageErased []) { base with cs := { base.cs with state := .erasing 31 } }).lp.last =
      ⟨0x82, .ok, 0⟩ := by decide +kernel

/-! ### Witnesses: the invariants -/

/-- Each law holds of a state that steps; a waiting command changes none of them. -/
theorem witness_invariants : State.reset.ImageLawful ∧ State.reset.dt.Lawful ∧ State.reset.BudgetLawful ∧
    ∃ t, step { State.reset with pending := [.readStatus] } = .next t :=
  ⟨⟨by decide, fun _ h => nomatch h⟩, lawful_empty, by unfold State.BudgetLawful; decide +kernel,
    ⟨_, exec_after .readStatus State.reset⟩⟩

theorem witness_levels : base.LevelsLawful := by
  have h : ∀ c : CircuitId, base.cc[c] = Circuit.reset := by decide +kernel
  intro c
  rw [h]
  constructor <;> simp [Circuit.reset]

theorem witness_gauges : base.GaugesLawful := by
  refine ⟨by unfold LiveConfig.curvesBounded; decide +kernel, ?_⟩
  have h : ∀ g : ChannelId, (base.ge[g]).filter = 0 ∧ (base.ge[g]).duty = 0 ∧ (base.ge[g]).directReading = none := by
    decide +kernel
  intro g
  obtain ⟨hf, hd, hr⟩ := h g
  constructor
  · rw [hf]; exact Nat.zero_le _
  · rw [hd]; exact Nat.zero_le _
  · intro r hr'; rw [hr] at hr'; exact nomatch hr'
  · intro _; exact ⟨hd, hf⟩

theorem witness_config : base.dt.Lawful ∧ base.ConfigLawful :=
  ⟨lawful_base, by decide +kernel, by unfold State.Aligned; decide +kernel⟩

theorem stored_test : testConfig.stored := by
  unfold LiveConfig.stored; decide +kernel

/-- The base state, no demand standing, meets the law of the part as a whole. -/
theorem witness_lawful : base.Lawful := by
  have hr : ∀ c : CircuitId, base.dt.res[c] = ⟨none, 0, 0⟩ := by decide +kernel
  have hc : ∀ c : CircuitId, base.cc[c] = Circuit.reset := by decide +kernel
  exact {
    table := lawful_base
    lanes := lanesStand_base
    stored := stored_test
    config := witness_config.2
    levels := witness_levels
    inStep := fun c => ⟨by revert c; decide +kernel, by rw [hc, hr]; rfl⟩
    resolved := by decide +kernel
    undemanded := fun c _ => by rw [hr, hc]; exact ⟨rfl, rfl, rfl, fun _ => rfl⟩
    unused := fun c _ => by rw [hc]; exact ⟨rfl, rfl, rfl, rfl⟩
    steps := fun c _ => by rw [hc]; exact Or.inl rfl
    clock := by unfold State.ClockLawful State.NoRequest; decide +kernel }

end Sys2Proof.Tests
end

section
/-! SUPPORT. The gauge arithmetic of 06: the curve lookup (R111) and the filter of stage 5 (R113). -/

namespace Sys2Proof.Machine

open Sys2Proof

/-! ### Roundings: the quotient each one stands for -/

/-- Rounded to nearest, halves up: the greatest whole number not above the quotient plus a half. -/
theorem roundHalfUp_bounds (n : Nat) {d : Nat} (hd : 0 < d) :
    2 * d * roundHalfUp n d ≤ 2 * n + d ∧ 2 * n + d < 2 * d * (roundHalfUp n d + 1) :=
  ⟨Nat.mul_div_le _ _, Nat.lt_mul_div_succ _ (by omega)⟩

theorem roundHalfAway_of_nonneg {n : Int} (hn : 0 ≤ n) (d : Nat) : roundHalfAway n d = roundHalfUp n.toNat d :=
  if_pos hn

theorem roundHalfAway_of_neg {n : Int} (hn : n < 0) (d : Nat) : roundHalfAway n d = -roundHalfUp (-n).toNat d :=
  if_neg (by omega)

/-- Halves away from zero: up where the quotient is not negative, and its mirror image where it is. -/
theorem roundHalfAway_bounds (n : Int) {d : Nat} (hd : 0 < d) :
    (0 ≤ n → 2 * (d : Int) * roundHalfAway n d ≤ 2 * n + d ∧ 2 * n + d < 2 * d * (roundHalfAway n d + 1)) ∧
    (n < 0 → 2 * (d : Int) * -roundHalfAway n d ≤ 2 * -n + d ∧ 2 * -n + d < 2 * d * (-roundHalfAway n d + 1)) := by
  constructor <;> intro hn
  · obtain ⟨hlow, hhigh⟩ := roundHalfUp_bounds n.toNat hd
    rw [roundHalfAway_of_nonneg hn]
    zify [hn] at hlow hhigh
    rw [Int.toNat_of_nonneg hn] at hlow hhigh
    exact ⟨hlow, hhigh⟩
  · obtain ⟨hlow, hhigh⟩ := roundHalfUp_bounds (-n).toNat hd
    rw [roundHalfAway_of_neg hn, neg_neg]
    zify at hlow hhigh
    rw [Int.toNat_of_nonneg (by omega)] at hlow hhigh
    exact ⟨hlow, hhigh⟩

/-- A quotient between 0 and a whole number, on either side of 0, is rounded to a number between them. -/
theorem roundHalfAway_between {n m : Int} {d : Nat} (hd : 0 < d) :
    (0 ≤ n → n ≤ m * d → 0 ≤ roundHalfAway n d ∧ roundHalfAway n d ≤ m) ∧
    (n ≤ 0 → m * d ≤ n → m ≤ roundHalfAway n d ∧ roundHalfAway n d ≤ 0) := by
  have hd' : (0 : Int) < d := by exact_mod_cast hd
  obtain ⟨hpos, hneg⟩ := roundHalfAway_bounds n hd
  refine ⟨fun hn hm => ?_, fun hn hm => ?_⟩
  · obtain ⟨hlow, hhigh⟩ := hpos hn
    constructor <;> nlinarith
  · rcases hn.lt_or_eq with hn | rfl
    · obtain ⟨hlow, hhigh⟩ := hneg hn
      constructor <;> nlinarith
    · obtain ⟨hlow, hhigh⟩ := hpos le_rfl
      constructor <;> nlinarith

/-- A whole quotient is its own rounding. -/
theorem roundHalfAway_mul (m : Int) {d : Nat} (hd : 0 < d) : roundHalfAway (m * d) d = m := by
  have hd' : (0 : Int) < d := by exact_mod_cast hd
  obtain ⟨hpos, hneg⟩ := roundHalfAway_bounds (m * d) hd
  rcases le_or_gt 0 (m * (d : Int)) with hm | hm
  · obtain ⟨hlow, hhigh⟩ := hpos hm
    nlinarith
  · obtain ⟨hlow, hhigh⟩ := hneg hm
    nlinarith

/-! ### One segment of a curve (R111) -/

/-- What R111 adds to the y of a segment's first point: the quotient, rounded to nearest, halves away from zero. -/
def segmentStep (p q : Point) (x : Nat) : Int :=
  roundHalfAway (((q.y : Int) - p.y) * ((x : Int) - p.x)) (q.x - p.x)

section Segment
variable {p q : Point} {x : Nat}

/-- The step lies between 0 and the difference of the y values. -/
theorem segmentStep_between (hpq : p.x < q.x) (hp : p.x ≤ x) (hq : x ≤ q.x) :
    (p.y ≤ q.y → 0 ≤ segmentStep p q x ∧ segmentStep p q x ≤ (q.y : Int) - p.y) ∧
    (q.y ≤ p.y → (q.y : Int) - p.y ≤ segmentStep p q x ∧ segmentStep p q x ≤ 0) := by
  have hwidth : 0 < q.x - p.x := by omega
  have hx : 0 ≤ (x : Int) - p.x ∧ (x : Int) - p.x ≤ (q.x - p.x : Nat) := by omega
  obtain ⟨hrise, hfall⟩ := roundHalfAway_between (n := ((q.y : Int) - p.y) * ((x : Int) - p.x))
    (m := (q.y : Int) - p.y) hwidth
  refine ⟨fun hy => ?_, fun hy => ?_⟩
  · exact hrise (mul_nonneg (by omega) hx.1) (mul_le_mul_of_nonneg_left hx.2 (by omega))
  · exact hfall (mul_nonpos_of_nonpos_of_nonneg (by omega) hx.1) (mul_le_mul_of_nonpos_left hx.2 (by omega))

/-- The value in a segment is never cut off at 0. -/
theorem between_eq_add_step (hpq : p.x < q.x) (hp : p.x ≤ x) (hq : x ≤ q.x) :
    (between p q x : Int) = p.y + segmentStep p q x := by
  obtain ⟨hrise, hfall⟩ := segmentStep_between hpq hp hq
  have hstep : 0 ≤ (p.y : Int) + segmentStep p q x := by
    rcases le_total p.y q.y with hy | hy
    · have := hrise hy; omega
    · have := hfall hy; omega
  exact Int.toNat_of_nonneg hstep

/-- One of a segment's ends is at or below every value in it. -/
theorem min_le_between (hpq : p.x < q.x) (hp : p.x ≤ x) (hq : x ≤ q.x) : min p.y q.y ≤ between p q x := by
  have heq := between_eq_add_step hpq hp hq
  obtain ⟨hrise, hfall⟩ := segmentStep_between hpq hp hq
  rcases le_total p.y q.y with hy | hy
  · have := hrise hy; omega
  · have := hfall hy; omega

theorem between_left (hpq : p.x < q.x) : between p q p.x = p.y := by
  have heq := between_eq_add_step hpq le_rfl hpq.le
  have hstep : segmentStep p q p.x = 0 := by
    simpa [segmentStep] using roundHalfAway_mul 0 (show 0 < q.x - p.x by omega)
  omega

theorem between_right (hpq : p.x < q.x) : between p q q.x = q.y := by
  have heq := between_eq_add_step hpq hpq.le le_rfl
  have hstep : segmentStep p q q.x = (q.y : Int) - p.y := by
    rw [segmentStep, ← Nat.cast_sub hpq.le]
    exact roundHalfAway_mul _ (by omega)
  omega

end Segment

/-! ### The lookup in a curve (R111), by recursion over the points -/

theorem curveLookup_singleton (p : Point) (x : Nat) : curveLookup [p] x = p.y := by
  simp [curveLookup, lookupFrom]

theorem curveLookup_cons_below {p : Point} {rest : List Point} {x : Nat} (h : x ≤ p.x) :
    curveLookup (p :: rest) x = p.y :=
  if_pos h

theorem curveLookup_cons_within {p q : Point} {rest : List Point} {x : Nat} (hp : p.x < x) (hq : x ≤ q.x) :
    curveLookup (p :: q :: rest) x = between p q x := by
  simp [curveLookup, lookupFrom, hq, hp.not_ge]

theorem curveLookup_cons_above {p q : Point} {rest : List Point} {x : Nat} (hp : p.x < x) (hq : q.x < x) :
    curveLookup (p :: q :: rest) x = curveLookup (q :: rest) x := by
  simp [curveLookup, lookupFrom, hp.not_ge, hq.not_ge]

/-- In a well-formed curve every point lies to the right of the first, and the curve without its first point is
well formed (R110). -/
theorem curveWellFormed_cons {p : Point} {rest : List Point} :
    curveWellFormed (p :: rest) = true ↔ (∀ a ∈ rest, p.x < a.x) ∧ curveWellFormed rest = true := by
  simp [curveWellFormed_iff]

/-- A point of a well-formed curve that begins with `q` is `q` or lies to the right of it. -/
theorem eq_head_or_right {q a : Point} {rest : List Point} (hw : curveWellFormed (q :: rest) = true)
    (ha : a ∈ q :: rest) : a = q ∨ q.x < a.x :=
  (List.mem_cons.1 ha).imp_right ((curveWellFormed_cons.1 hw).1 a)

/-- At a point the lookup gives that point's y. -/
theorem curveLookup_at_point {points : List Point} {a : Point} (hw : curveWellFormed points = true)
    (ha : a ∈ points) : curveLookup points a.x = a.y := by
  induction points with
  | nil => exact absurd ha List.not_mem_nil
  | cons p rest ih =>
    obtain ⟨hright, hrest⟩ := curveWellFormed_cons.1 hw
    rcases List.mem_cons.1 ha with rfl | ha
    · exact curveLookup_cons_below le_rfl
    · cases rest with
      | nil => exact absurd ha List.not_mem_nil
      | cons q rest =>
        rcases eq_head_or_right hrest ha with rfl | hqa
        · rw [curveLookup_cons_within (hright a ha) le_rfl, between_right (hright a ha)]
        · rw [curveLookup_cons_above (hright a ha) hqa, ih hrest ha]

/-- Beyond the last point the lookup gives the last point's y. -/
theorem curveLookup_beyond {points : List Point} {q : Point} {x : Nat} (hw : curveWellFormed points = true)
    (hq : points.getLast? = some q) (hx : q.x < x) : curveLookup points x = q.y := by
  induction points with
  | nil => exact nomatch hq
  | cons p rest ih =>
    obtain ⟨hright, hrest⟩ := curveWellFormed_cons.1 hw
    cases rest with
    | nil =>
      obtain rfl : p = q := by simpa using hq
      exact curveLookup_singleton p x
    | cons r rest =>
      have hlast : (r :: rest).getLast? = some q := by rwa [List.getLast?_cons_cons] at hq
      have hmem : q ∈ r :: rest := List.mem_of_getLast? hlast
      have hpq : p.x < q.x := hright q hmem
      have hrq : r.x ≤ q.x := by
        rcases eq_head_or_right hrest hmem with rfl | h
        · exact le_rfl
        · exact h.le
      rw [curveLookup_cons_above (by omega) (by omega), ih hrest hlast]

/-- Between two points that follow each other the lookup is the value in their segment, at either end too. -/
theorem curveLookup_segment {points : List Point} {i : Nat} {a b : Point} {x : Nat}
    (hw : curveWellFormed points = true) (ha : points[i]? = some a) (hb : points[i + 1]? = some b)
    (hax : a.x ≤ x) (hxb : x ≤ b.x) : a.x < b.x ∧ curveLookup points x = between a b x := by
  induction points generalizing i with
  | nil => exact nomatch ha
  | cons p rest ih =>
    obtain ⟨hright, hrest⟩ := curveWellFormed_cons.1 hw
    cases i with
    | zero =>
      obtain rfl : p = a := by simpa using ha
      have hb : rest[0]? = some b := by simpa using hb
      have hpb : p.x < b.x := hright b (List.mem_of_getElem? hb)
      refine ⟨hpb, ?_⟩
      cases rest with
      | nil => exact nomatch hb
      | cons q rest =>
        obtain rfl : q = b := by simpa using hb
        rcases hax.eq_or_lt with rfl | hpx
        · rw [curveLookup_cons_below le_rfl, between_left hpb]
        · exact curveLookup_cons_within hpx hxb
    | succ i =>
      have ha : rest[i]? = some a := by simpa using ha
      have hb : rest[i + 1]? = some b := by simpa using hb
      obtain ⟨hab, heq⟩ := ih hrest ha hb
      refine ⟨hab, ?_⟩
      have hmem : a ∈ rest := List.mem_of_getElem? ha
      have hpa : p.x < a.x := hright a hmem
      rcases hax.eq_or_lt with rfl | hax
      · rw [curveLookup_at_point hw (List.mem_cons_of_mem p hmem), between_left hab]
      · cases rest with
        | nil => exact nomatch ha
        | cons q rest =>
          have hqx : q.x < x := by
            rcases eq_head_or_right hrest hmem with rfl | h <;> omega
          rw [curveLookup_cons_above (by omega) hqx, heq]

/-- Every lookup is a point's y or a value in a segment between two points in use. -/
theorem curveLookup_cases {points : List Point} (hne : points ≠ []) (x : Nat) :
    (∃ a ∈ points, curveLookup points x = a.y) ∨
    ∃ a ∈ points, ∃ b ∈ points, a.x < x ∧ x ≤ b.x ∧ curveLookup points x = between a b x := by
  induction points with
  | nil => exact absurd rfl hne
  | cons p rest ih =>
    rcases le_or_gt x p.x with hp | hp
    · exact .inl ⟨p, List.mem_cons_self, curveLookup_cons_below hp⟩
    · cases rest with
      | nil => exact .inl ⟨p, List.mem_cons_self, curveLookup_singleton p x⟩
      | cons q rest =>
        rcases le_or_gt x q.x with hq | hq
        · exact .inr ⟨p, by simp, q, by simp, hp, hq, curveLookup_cons_within hp hq⟩
        · rw [curveLookup_cons_above hp hq]
          rcases ih (List.cons_ne_nil q rest) with ⟨a, ha, heq⟩ | ⟨a, ha, b, hb, hrest⟩
          · exact .inl ⟨a, List.mem_cons_of_mem p ha, heq⟩
          · exact .inr ⟨a, List.mem_cons_of_mem p ha, b, List.mem_cons_of_mem p hb, hrest⟩

/-- A lookup is not below the least y in use. -/
theorem exists_y_le_curveLookup {points : List Point} (hne : points ≠ []) (x : Nat) :
    ∃ a ∈ points, a.y ≤ curveLookup points x := by
  rcases curveLookup_cases hne x with ⟨a, ha, heq⟩ | ⟨a, ha, b, hb, hax, hxb, heq⟩
  · exact ⟨a, ha, heq.ge⟩
  · rw [heq]
    rcases min_le_iff.1 (min_le_between (hax.trans_le hxb) hax.le hxb) with h | h
    · exact ⟨a, ha, h⟩
    · exact ⟨b, hb, h⟩

/-- A lookup is not above the greatest y in use. -/
theorem exists_curveLookup_le_y {points : List Point} (hne : points ≠ []) (x : Nat) :
    ∃ a ∈ points, curveLookup points x ≤ a.y := by
  rcases curveLookup_cases hne x with ⟨a, ha, heq⟩ | ⟨a, ha, b, hb, hax, hxb, heq⟩
  · exact ⟨a, ha, heq.le⟩
  · rw [heq]
    rcases le_max_iff.1 (between_le hax hxb (le_max_left a.y b.y) (le_max_right a.y b.y)) with h | h
    · exact ⟨a, ha, h⟩
    · exact ⟨b, hb, h⟩

/-- Settles O46: each clause is the lemma about the lookup at its place on the curve; the step inside a segment is
`segmentStep`, and its bounds are those of the rounding. -/
theorem curveLookupInterpolates : Obligations.CurveLookupInterpolates := by
  intro points p q x hw hhead hlast
  have hne : points ≠ [] := by rintro rfl; exact nomatch hhead
  refine ⟨fun hx => ?_, curveLookup_beyond hw hlast, fun i a b ha hb hax hxb => ?_, ?_,
    exists_y_le_curveLookup hne x, exists_curveLookup_le_y hne x, curveLookup_le⟩
  · obtain ⟨rest, rfl⟩ := List.head?_eq_some_iff.1 hhead
    exact curveLookup_cons_below hx.le
  · obtain ⟨hab, heq⟩ := curveLookup_segment hw ha hb hax hxb
    refine ⟨segmentStep a b x, by rw [heq, between_eq_add_step hab hax hxb], ?_⟩
    rw [← Nat.cast_sub hab.le]
    exact roundHalfAway_bounds _ (by omega)
  · rintro a ha rfl
    exact curveLookup_at_point hw ha

/-! ### The coefficient and the step of the filter (R113) -/

theorem dampingCoefficient_bounds (damping : Nat) :
    2 * (damping + 1) * dampingCoefficient damping ≤ 2 * 256 + (damping + 1) ∧
    2 * 256 + (damping + 1) < 2 * (damping + 1) * (dampingCoefficient damping + 1) :=
  roundHalfUp_bounds 256 (Nat.succ_pos damping)

/-- Every damping of the range leaves the filter a coefficient above 0. -/
theorem one_le_dampingCoefficient {damping : Nat} (h : damping ≤ 255) : 1 ≤ dampingCoefficient damping := by
  obtain ⟨-, hhigh⟩ := dampingCoefficient_bounds damping
  by_contra hk
  obtain hk : dampingCoefficient damping = 0 := by omega
  rw [hk] at hhigh
  omega

theorem dampingCoefficient_zero : dampingCoefficient 0 = 256 := by decide

section Filter
variable {damping f target : Nat} {d : Int}

/-- The step is the truncated quotient, or one sixteenth in the direction of d where the quotient is 0 (R113, points 2
and 3). -/
theorem filterStep_eq (hd : d = 16 * (target : Int) - f) :
    filterStep damping f target =
      if (d * dampingCoefficient damping).tdiv 256 = 0 then d.sign else (d * dampingCoefficient damping).tdiv 256 := by
  have hd' : (target : Int) * 16 - f = d := by omega
  have hsign : (if 0 < d then 1 else if d < 0 then -1 else 0) = d.sign := by
    rcases lt_trichotomy d 0 with h | rfl | h
    · rw [if_neg h.not_gt, if_pos h, Int.sign_eq_neg_one_of_neg h]
    · rfl
    · rw [if_pos h, Int.sign_eq_one_of_pos h]
  simp only [filterStep, hd', hsign]

theorem filterStep_of_quotient_ne (hd : d = 16 * (target : Int) - f)
    (hq : (d * dampingCoefficient damping).tdiv 256 ≠ 0) :
    filterStep damping f target = (d * dampingCoefficient damping).tdiv 256 := by
  rw [filterStep_eq hd, if_neg hq]

theorem filterStep_of_quotient_zero (hd : d = 16 * (target : Int) - f)
    (hq : (d * dampingCoefficient damping).tdiv 256 = 0) : filterStep damping f target = d.sign := by
  rw [filterStep_eq hd, if_pos hq]

/-- The filter stands only at its target. -/
theorem filterStep_eq_zero_iff (hd : d = 16 * (target : Int) - f) : filterStep damping f target = 0 ↔ d = 0 := by
  by_cases hq : (d * dampingCoefficient damping).tdiv 256 = 0
  · rw [filterStep_of_quotient_zero hd hq, Int.sign_eq_zero_iff_zero]
  · rw [filterStep_of_quotient_ne hd hq]
    refine iff_of_false hq ?_
    rintro rfl
    exact hq (by simp)

/-- A step toward a target above the filter is up, and not past it. -/
theorem filterStep_up (hd : d = 16 * (target : Int) - f) (hpos : 0 < d) :
    0 < filterStep damping f target ∧ filterStep damping f target ≤ d := by
  have hne := (filterStep_eq_zero_iff (damping := damping) hd).not.2 hpos.ne'
  have := (filterStep_between damping f target).1 (by omega)
  omega

/-- A step toward a target below the filter is down, and not past it. -/
theorem filterStep_down (hd : d = 16 * (target : Int) - f) (hneg : d < 0) :
    filterStep damping f target < 0 ∧ d ≤ filterStep damping f target := by
  have hne := (filterStep_eq_zero_iff (damping := damping) hd).not.2 hneg.ne
  have := (filterStep_between damping f target).2 (by omega)
  omega

/-- With a coefficient of 256 the step is the whole difference. -/
theorem filterStep_damping_zero (hd : d = 16 * (target : Int) - f) : filterStep 0 f target = d := by
  have hquot : (d * dampingCoefficient 0).tdiv 256 = d := by
    rw [dampingCoefficient_zero]
    exact Int.mul_tdiv_cancel d (by decide)
  by_cases h0 : d = 0
  · exact ((filterStep_eq_zero_iff hd).2 h0).trans h0.symm
  · rw [filterStep_of_quotient_ne hd (by rwa [hquot]), hquot]

/-- The last 256/k sixteenths, rounded up, are covered one at a time. -/
theorem filterStep_natAbs_eq_one (hd : d = 16 * (target : Int) - f) (hne : 0 < d.natAbs)
    (hnear : d.natAbs ≤ (256 + dampingCoefficient damping - 1) / dampingCoefficient damping) :
    (filterStep damping f target).natAbs = 1 := by
  by_cases hq : (d * dampingCoefficient damping).tdiv 256 = 0
  · rw [filterStep_of_quotient_zero hd hq, Int.natAbs_sign_of_ne_zero (by omega)]
  · have hk := dampingCoefficient_le damping
    have hprod : d.natAbs * dampingCoefficient damping < 2 * 256 := by
      have := Nat.mul_le_of_le_div _ _ _ hnear
      omega
    have habs : ((d * dampingCoefficient damping).tdiv 256).natAbs =
        d.natAbs * dampingCoefficient damping / 256 := by
      rw [Int.natAbs_tdiv, Int.natAbs_mul, Int.natAbs_natCast]
      rfl
    rw [filterStep_of_quotient_ne hd hq]
    omega

/-! ### The filter from tick to tick (R113) -/

/-- The filter moves by its step: it is never cut off at 0. -/
theorem filterNext_eq_add_step (damping f target : Nat) :
    (filterNext damping f target : Int) = f + filterStep damping f target := by
  have h := filterStep_between damping f target
  refine Int.toNat_of_nonneg ?_
  rcases le_total 0 ((target : Int) * 16 - f) with hd | hd
  · have := h.1 hd; omega
  · have := h.2 hd; omega

/-- Each tick brings the filter at least one sixteenth nearer to its target, until it is there. -/
theorem filterNext_distance_le (damping f target : Nat) :
    (16 * (target : Int) - filterNext damping f target).natAbs ≤ (16 * (target : Int) - f).natAbs - 1 := by
  rw [filterNext_eq_add_step]
  rcases lt_trichotomy (16 * (target : Int) - f) 0 with hd | hd | hd
  · have := filterStep_down (damping := damping) rfl hd; omega
  · have := (filterStep_eq_zero_iff (damping := damping) rfl).2 hd; omega
  · have := filterStep_up (damping := damping) rfl hd; omega

theorem filterNext_repeat_distance_le (damping f target ticks : Nat) :
    (16 * (target : Int) - (Nat.repeat (fun x => filterNext damping x target) ticks f : Nat)).natAbs ≤
      (16 * (target : Int) - f).natAbs - ticks := by
  induction ticks with
  | zero => exact le_rfl
  | succ ticks ih =>
    have := filterNext_distance_le damping (Nat.repeat (fun x => filterNext damping x target) ticks f) target
    simp only [Nat.repeat]
    omega

/-- After as many ticks as the filter stands sixteenths away, it is at its target, and stays there. -/
theorem filterNext_repeat_eq_target {ticks : Nat} (h : (16 * (target : Int) - f).natAbs ≤ ticks) :
    Nat.repeat (fun x => filterNext damping x target) ticks f = 16 * target := by
  have := filterNext_repeat_distance_le damping f target ticks
  omega

theorem displayedOf_bounds (f : Nat) : 32 * displayedOf f ≤ 2 * f + 16 ∧ 2 * f + 16 < 32 * (displayedOf f + 1) :=
  roundHalfUp_bounds f (d := 16) (by decide)

theorem displayedOf_le (h : f ≤ 16000) : displayedOf f ≤ 1000 :=
  roundHalfUp_le (by decide) h

end Filter

/-- Settles O47: the coefficient is a rounding, the step is `filterStep`, and the distance to the target, which falls
by at least 1 at each tick, bounds the number of ticks. -/
theorem filterMovesTowardItsTarget : Obligations.FilterMovesTowardItsTarget := by
  intro damping f target d step hdamping hf htarget hd hstep
  have hnext := filterNext_eq_add_step damping f target
  obtain rfl : step = filterStep damping f target := by omega
  have hrange := filterNext_le (damping := damping) hf htarget
  refine ⟨dampingCoefficient_bounds damping, one_le_dampingCoefficient hdamping, dampingCoefficient_le damping, ?_,
    (filterStep_eq_zero_iff hd).2, filterStep_up hd, filterStep_down hd, filterStep_natAbs_eq_one hd, hrange,
    displayedOf_le hrange, displayedOf_bounds f, ?_,
    (16 * (target : Int) - f).natAbs, fun _ => filterNext_repeat_eq_target⟩
  · rintro quotient rfl
    refine ⟨filterStep_of_quotient_ne hd, fun hq hpos => ?_, fun hq hneg => ?_⟩
    · rw [filterStep_of_quotient_zero hd hq, Int.sign_eq_one_of_pos hpos]
    · rw [filterStep_of_quotient_zero hd hq, Int.sign_eq_neg_one_of_neg hneg]
  · have hnext := filterNext_eq_add_step 0 f target
    rw [filterStep_damping_zero hd] at hnext
    omega

end Sys2Proof.Machine
end

section
/-! SUPPORT. A circuit's own events (R29, R37) and the ramp step (R121): a driven output takes its new level and nothing
else, and an event that neither sets the lamp-out flag nor locks the circuit raises no status. -/

namespace Sys2Proof.Machine

open Sys2Proof

/-! ### Driving the output and the timers -/

/-- A driven output moved to another level above 0 keeps its measurement schedule (R37). -/
theorem Circuit.drive_of_driven {now level : Nat} {r : Circuit} (hr : 0 < r.applied) (hlevel : 0 < level) :
    r.drive now level = { r with applied := level } := by
  unfold Circuit.drive
  rw [if_neg hlevel.ne', if_neg hr.ne']

theorem timerOut_some {due now : Nat} (h : due ≤ now) : timerOut (some due) now = true :=
  decide_eq_true h

/-! ### Events of one circuit -/

theorem LinkPort.raiseIf_false (lp : LinkPort) (c : Status) : lp.raiseIf c false = lp := rfl

/-- An event that sets no lamp-out flag and does not lock the circuit writes the circuit's record alone. -/
theorem State.circuitEvent_of_silent {s : State} {c : CircuitId} {f : Circuit → Circuit}
    (hlamp : (f s.cc[c]).lampOut = (s.cc[c]).lampOut)
    (hlock : (f s.cc[c]).state = .locked → (s.cc[c]).state = .locked) :
    s.circuitEvent c f = { s with cc := s.cc.set c (f s.cc[c]) } := by
  have hraised : ((f s.cc[c]).lampOut && !(s.cc[c]).lampOut) = false := by rw [hlamp, Bool.and_not_self]
  have hlocked : (decide ((f s.cc[c]).state = .locked) && decide ((s.cc[c]).state ≠ .locked)) = false := by
    simpa using hlock
  unfold State.circuitEvent
  dsimp only
  rw [hraised, hlocked, LinkPort.raiseIf_false, LinkPort.raiseIf_false]

/-! ### The ramp step on the record (R121) -/

/-- The step that reaches the granted level. -/
theorem Circuit.rampUp_reaches {fan : FanCfg} {now : Nat} {r : Circuit} (hr : 0 < r.applied)
    (hg : r.applied < r.granted) (hreach : r.granted ≤ r.applied + fan.rate) :
    r.rampUp fan now = { r with state := .running, applied := r.granted, rampDue := none } := by
  unfold Circuit.rampUp
  rw [if_pos hreach, Circuit.drive_of_driven hr (Nat.zero_lt_of_lt hg)]

/-- A step that stays below the granted level. -/
theorem Circuit.rampUp_climbs {fan : FanCfg} {now : Nat} {r : Circuit} (hr : 0 < r.applied)
    (hshort : r.applied + fan.rate < r.granted) :
    r.rampUp fan now = { r with applied := r.applied + fan.rate, rampDue := some (now + 100) } := by
  unfold Circuit.rampUp
  rw [if_neg hshort.not_ge, Circuit.drive_of_driven hr (Nat.add_pos_left hr _)]

theorem Circuit.rampUp_lampOut (fan : FanCfg) (now : Nat) (r : Circuit) :
    (r.rampUp fan now).lampOut = r.lampOut := by
  have hface := fun level => congrArg (·.2.2.2.1) (r.face_drive now level)
  unfold Circuit.rampUp
  split
  · exact hface r.granted
  · exact hface (r.applied + fan.rate)

/-- A ramp step that is due replaces the record by `rampUp` of it and ends with the sleep timer formed: a climb raises
no status, as `rampUp` does not lock the fan. -/
theorem exec_rampStep_of_due {s : State} {c : CircuitId} {due : Nat} {r : Circuit} (hp : s.powered = true)
    (he : s.evaluate = false) (hstate : (s.cc[c]).state = .ramp) (hdue : (s.cc[c]).rampDue = some due)
    (hnow : due ≤ s.now) (hr : (s.cc[c]).rampUp s.cfg.fan s.now = r) (hlock : r.state ≠ .locked) :
    exec (.rampStep c) s = .next ({ s with cc := s.cc.set c r } : State).formed := by
  subst hr
  have hready : State.rampReady c s = true := by
    unfold State.rampReady
    rw [hstate, hdue, timerOut_some hnow]
    rfl
  have hevent : s.circuitEvent c (Circuit.rampUp s.cfg.fan s.now) =
      { s with cc := s.cc.set c ((s.cc[c]).rampUp s.cfg.fan s.now) } :=
    State.circuitEvent_of_silent (Circuit.rampUp_lampOut _ _ _) (fun h => absurd h hlock)
  calc exec (.rampStep c) s
      = execRampStep c s := rfl
    _ = .next (s.circuitEvent c (Circuit.rampUp s.cfg.fan s.now)).formed :=
        congrArg Host.Outcome.next (State.event_to hp hready he)
    _ = _ := by rw [hevent]

/-- Settles O28: the two clauses are the two branches of the ramp step on the record, each of a driven output. -/
theorem rampStepClimbsToTheGrantedLevel : Obligations.RampStepClimbsToTheGrantedLevel := by
  intro s c due hp he hstate hdue hnow hdriven hbelow
  refine ⟨fun hreach => ?_, fun hshort => ?_⟩
  · exact exec_rampStep_of_due hp he hstate hdue hnow (Circuit.rampUp_reaches hdriven hbelow hreach) (by simp)
  · exact exec_rampStep_of_due hp he hstate hdue hnow (Circuit.rampUp_climbs hdriven hshort)
      (ne_of_eq_of_ne hstate (by decide))

end Sys2Proof.Machine
end

section
/-! SUPPORT. The pending set and the attention line (R161, R162) read member by member, and ACK-STATUS (R164). -/

namespace Sys2Proof.Machine

open Sys2Proof

/-! ### The members of a status set (R166) -/

/-- The twelve conditions in the order of their members. -/
def allStatuses : List Status :=
  [.lampOut, .circuitLocked, .senderFault, .gaugeUndersupply, .shedChanged, .supplyLow, .notCharging, .syncFault,
    .demandExpired, .saveDone, .saveFailed, .configDefaulted]

theorem Status.member_lt (c : Status) : c.member < 12 := by cases c <;> decide

theorem Status.exists_member : ∀ i : Fin 12, ∃ c ∈ allStatuses, c.member = i.val := by decide

theorem Status.mark_eq_twoPow (c : Status) : c.mark = BitVec.twoPow 12 c.member := by cases c <;> rfl

theorem Status.and_mark_ne_zero_iff (x : StatusSet) (c : Status) : x &&& c.mark ≠ 0 ↔ x.getLsbD c.member = true := by
  rw [c.mark_eq_twoPow, BitVec.and_twoPow]
  have hne : BitVec.twoPow 12 c.member ≠ 0 := by cases c <;> decide
  cases x.getLsbD c.member
  · simp
  · simpa using hne

/-- A status set is empty exactly when it holds no condition: the twelve are all its members. -/
theorem StatusSet.ne_zero_iff (x : StatusSet) : x ≠ 0 ↔ ∃ c : Status, x.getLsbD c.member = true := by
  constructor
  · intro hne
    by_contra hnone
    push Not at hnone
    refine hne (BitVec.eq_of_getLsbD_eq fun i hi => ?_)
    obtain ⟨c, -, hc⟩ := Status.exists_member ⟨i, hi⟩
    have hclear := hnone c
    rw [hc] at hclear
    simpa using hclear
  · rintro ⟨c, hc⟩ rfl
    simp at hc

/-! ### The pending set and the line (R161, R162) -/

theorem State.isPending_eq (s : State) (c : Status) : s.isPending c = s.lp.pending.getLsbD c.member := by
  unfold State.isPending
  rw [Bool.eq_iff_iff, decide_eq_true_iff]
  exact Status.and_mark_ne_zero_iff _ c

/-- R162, with power: the line is low exactly when the mask names some pending condition. -/
theorem State.attentionLow_iff {s : State} (hp : s.powered = true) :
    s.attentionLow = true ↔ ∃ c : Status, s.isPending c = true ∧ s.cfg.link.mask.getLsbD c.member = true := by
  unfold State.attentionLow
  rw [hp, Bool.true_and, decide_eq_true_iff, StatusSet.ne_zero_iff]
  simp only [BitVec.getLsbD_and, Bool.and_eq_true, State.isPending_eq]

theorem State.isPending_raise (s : State) (c : Status) : (s.raise c).isPending c = true := by
  rw [State.isPending_eq, State.raise_lp]
  have hmark : c.mark.getLsbD c.member = true := by cases c <;> rfl
  simp [LinkPort.raiseIf, hmark]

/-- R162: the raising of a condition that the mask names pulls the line. -/
theorem State.attentionLow_raise {s : State} {c : Status} (hp : s.powered = true)
    (hmask : s.cfg.link.mask.getLsbD c.member = true) : (s.raise c).attentionLow = true :=
  (State.attentionLow_iff (s := s.raise c) hp).2 ⟨c, s.isPending_raise c, hmask⟩

theorem State.Ready.raise {s : State} (h : s.Ready) (c : Status) : (s.raise c).Ready :=
  ⟨h.powered, h.awake, h.settled⟩

theorem State.isPending_answered (s : State) (code : Byte) (r : Result) (data : List Byte) (c : Status) :
    (s.answered code r data).isPending c = s.isPending c := rfl

/-- R164: the named conditions leave the pending set and the others stay. -/
theorem State.isPending_acknowledge (s : State) (conditions : Half) (c : Status) :
    (s.acknowledge (BitVec.ofNat 12 conditions.toNat)).isPending c =
      (s.isPending c && !conditions.getLsbD c.member) := by
  have hnamed : (BitVec.ofNat 12 conditions.toNat).getLsbD c.member = conditions.getLsbD c.member := by
    rw [BitVec.getLsbD_ofNat, decide_eq_true c.member_lt, Bool.true_and, BitVec.testBit_toNat]
  rw [State.isPending_eq, State.isPending_eq, State.acknowledge_lp, BitVec.getLsbD_and, BitVec.getLsbD_not,
    decide_eq_true c.member_lt, Bool.true_and, hnamed]

/-! ### ACK-STATUS (R164) -/

theorem exec_ackStatus_of_beyond {s : State} (h : s.Ready) {conditions : Half} (hc : 4096 ≤ conditions.toNat) :
    exec (.ackStatus conditions) s = .next (s.answered 0x71 .badParameter []) :=
  congrArg Host.Outcome.next (h.frame_still (if_pos hc))

theorem exec_ackStatus_of_within {s : State} (h : s.Ready) {conditions : Half} (hc : conditions.toNat < 4096) :
    exec (.ackStatus conditions) s =
      .next ((s.acknowledge (BitVec.ofNat 12 conditions.toNat)).answered 0x71 .ok []) :=
  congrArg Host.Outcome.next (h.frame_to (t := s.acknowledge _) h.settled (if_neg hc.not_ge))

/-- Settles O22: an ACK-STATUS within the twelve answers over the state acknowledged, whose pending set is known member
by member; the raising taken first is the same command over the state raised. -/
theorem ackStatusClearsTheNamedConditions : Obligations.AckStatusClearsTheNamedConditions := by
  intro s conditions h
  refine ⟨exec_ackStatus_of_beyond h, fun hc => ⟨_, exec_ackStatus_of_within h hc, rfl, ?_, ?_, ?_⟩⟩
  · intro c
    rw [State.isPending_answered, State.isPending_acknowledge]
  · exact State.attentionLow_iff h.powered
  · intro c hnamed
    refine ⟨State.isPending_raise _ c, fun hmask => ?_, _, exec_ackStatus_of_within (h.raise c) hc, ?_⟩
    · exact State.attentionLow_raise h.powered hmask
    · rw [State.isPending_answered, State.isPending_acknowledge, hnamed, Bool.not_true, Bool.and_false]

end Sys2Proof.Machine
end

section
/-! SUPPORT. The window (R155): every command but SET-WINDOW and the resets leaves it, whether as a working of the blocks
(Laws/Work.lean), as an applied write (R160) or as the end of a command. -/

namespace Sys2Proof.Machine

open Sys2Proof

/-! ### The ends of commands -/

theorem State.window_of_aside {s t : State} (h : t.aside = s.aside) : t.lp.window = s.lp.window :=
  congrArg Standing.window (State.standing_of_aside h)

theorem State.settle_window (s : State) : s.settle.lp.window = s.lp.window := by rw [State.settle_keeps]

theorem State.takeEvaluation_window (stamp : Nat) (s : State) :
    (s.takeEvaluation stamp).lp.window = s.lp.window := by
  unfold State.takeEvaluation
  dsimp only
  split
  · exact LinkPort.raiseIf_window _ _ _
  · rfl

theorem State.wakeUp_window (s : State) : s.wakeUp.lp.window = s.lp.window := by
  unfold State.wakeUp
  split
  · rw [State.settle_window, s.wake_work.window]
  · rfl

/-- A frame whose body leaves the window leaves it, with the wake before it and the answer after it. -/
theorem State.frame_window {body : State → State × Reply} (h : ∀ s, (body s).1.lp.window = s.lp.window)
    (code : Byte) (s : State) : (s.frame code body).lp.window = s.lp.window := by
  unfold State.frame
  split
  · calc (((body s.wakeUp).1.restartSleep.settle).answer code (body s.wakeUp).2).lp.window
        = ((body s.wakeUp).1.restartSleep.settle).lp.window := rfl
      _ = (body s.wakeUp).1.lp.window := State.settle_window _
      _ = s.wakeUp.lp.window := h _
      _ = s.lp.window := s.wakeUp_window
  · rfl

theorem State.event_window {f : State → State} (h : ∀ s, (f s).lp.window = s.lp.window) (due : State → Bool)
    (s : State) : (s.event due f).lp.window = s.lp.window := by
  unfold State.event
  split
  · rw [State.settle_window, h]
  · rfl

theorem State.foldl_window {α : Type} {f : State → α → State} (h : ∀ s a, (f s a).lp.window = s.lp.window)
    (l : List α) (s : State) : (l.foldl f s).lp.window = s.lp.window := by
  induction l generalizing s with
  | nil => rfl
  | cons a l ih => exact (ih (f s a)).trans (h s a)

/-! ### The demand and circuit commands -/

theorem State.placeBody_window (circuit intent : Byte) (level : Half) (priority : Byte) (hold : Half) (gated : Byte)
    (s : State) : (s.placeBody circuit intent level priority hold gated).1.lp.window = s.lp.window := by
  have hplace : ∀ p, (s.placeHost p).1.lp.window = s.lp.window := by
    intro p
    unfold State.placeHost
    split
    · rfl
    · split
      · rfl
      · split
        · rfl
        · split
          · rfl
          · exact State.window_of_aside (s.aside_createAt _ _)
  unfold State.placeBody
  split
  · split
    · exact hplace _
    · rfl
  · rfl
  · rfl

theorem State.amendBody_window (handle : Half) (selection : Byte) (level : Half) (priority : Byte) (hold : Half)
    (s : State) : (s.amendBody handle selection level priority hold).1.lp.window = s.lp.window := by
  unfold State.amendBody
  split
  · rfl
  · split
    · rfl
    · split_ifs
      · rfl
      · rfl
      · exact State.window_of_aside (s.aside_amendAt _ _ _)

theorem State.retireBody_window (handle : Half) (s : State) : (s.retireBody handle).1.lp.window = s.lp.window := by
  unfold State.retireBody
  split
  · rfl
  · split
    · rfl
    · exact (s.retireSlot_work _).window

theorem State.retireHostAllBody_window (s : State) : s.retireHostAllBody.1.lp.window = s.lp.window :=
  (s.retireWhere_work Demand.isHost).window

theorem State.clearFaultBody_window (circuit : Byte) (s : State) :
    (s.clearFaultBody circuit).1.lp.window = s.lp.window := by
  unfold State.clearFaultBody
  split
  · rfl
  · split <;> rfl

theorem State.circuitEvent_window (c : CircuitId) (f : Circuit → Circuit) (s : State) :
    (s.circuitEvent c f).lp.window = s.lp.window := by
  unfold State.circuitEvent
  exact (LinkPort.raiseIf_window _ _ _).trans (LinkPort.raiseIf_window _ _ _)

theorem State.takeExpiry_window (s : State) : s.takeExpiry.lp.window = s.lp.window := by
  unfold State.takeExpiry
  split
  · exact (State.holdExpiry_work _).window.trans s.wakeUp_window
  · exact s.holdExpiry_work.window

/-! ### The signal and gauge commands -/

theorem State.flashBody_window (lanes count : Byte) (s : State) :
    (s.flashBody lanes count).1.lp.window = s.lp.window := by
  unfold State.flashBody
  split
  · rfl
  · split
    · rfl
    · exact (s.placeHostRequest_work _).window

theorem State.lampTestBody_window (duration : Byte) (s : State) :
    (s.lampTestBody duration).1.lp.window = s.lp.window := by
  unfold State.lampTestBody
  split
  · rfl
  · exact (s.lampTest_work _).window

theorem State.gaugeDirectBody_window (channel : Byte) (reading : Half) (s : State) :
    (s.gaugeDirectBody channel reading).1.lp.window = s.lp.window := by
  unfold State.gaugeDirectBody
  split
  · rfl
  · split_ifs <;> rfl

theorem State.gaugeReleaseBody_window (channel : Byte) (s : State) :
    (s.gaugeReleaseBody channel).1.lp.window = s.lp.window := by
  unfold State.gaugeReleaseBody
  split
  · rfl
  · split <;> rfl

/-! ### Reads -/

theorem State.readDemandBody_state (handle : Half) (s : State) : (s.readDemandBody handle).1 = s := by
  unfold State.readDemandBody; split <;> rfl

theorem State.listCircuitBody_state (circuit : Byte) (s : State) : (s.listCircuitBody circuit).1 = s := by
  unfold State.listCircuitBody; split <;> rfl

theorem State.readCircuitBody_state (circuit : Byte) (s : State) : (s.readCircuitBody circuit).1 = s := by
  unfold State.readCircuitBody; split <;> rfl

theorem State.readGaugeBody_state (channel : Byte) (s : State) : (s.readGaugeBody channel).1 = s := by
  unfold State.readGaugeBody; split <;> rfl

theorem State.readStreamBody_state (s : State) : s.readStreamBody.1 = s := by
  unfold State.readStreamBody; split <;> rfl

/-! ### An applied write (R160) -/

theorem State.circuitWritten_window (old : LiveConfig) (c : CircuitId) (s : State) :
    (s.circuitWritten old c).lp.window = s.lp.window := by
  unfold State.circuitWritten
  dsimp only
  split
  · rfl
  · exact LinkPort.raiseIf_window _ _ _

theorem State.fanWritten_window (old : LiveConfig) (s : State) : (s.fanWritten old).lp.window = s.lp.window := by
  unfold State.fanWritten
  split
  · rfl
  · exact State.foldl_window (fun t c => LinkPort.raiseIf_window _ _ _) _ s

theorem State.writeDuty_window (s : State) (c : CircuitId) (d : Nat) :
    (s.writeDuty c d).lp.window = s.lp.window :=
  State.window_of_aside (s.aside_writeDuty c d)

theorem State.gaugeDisable_window (g : ChannelId) (old : GaugeCfg) (s : State) :
    (s.gaugeDisable g old).lp.window = s.lp.window := by
  unfold State.gaugeDisable
  dsimp only
  split
  · exact (State.retireKey_work _ _ _).window.trans (State.writeDuty_window _ _ _)
  · exact State.writeDuty_window _ _ _

theorem State.gaugeDriveChanged_window (old new : GaugeCfg) (s : State) :
    (s.gaugeDriveChanged old new).lp.window = s.lp.window := by
  unfold State.gaugeDriveChanged
  split
  · rfl
  · exact s.writeDuty_window _ _

theorem State.gaugeSenderChanged_window (g : ChannelId) (old new : GaugeCfg) (s : State) :
    (s.gaugeSenderChanged g old new).lp.window = s.lp.window := by
  unfold State.gaugeSenderChanged
  split <;> rfl

theorem State.gaugeWarningChanged_window (g : ChannelId) (old new : GaugeCfg) (s : State) :
    (s.gaugeWarningChanged g old new).lp.window = s.lp.window := by
  unfold State.gaugeWarningChanged
  dsimp only
  split_ifs
  · exact (State.retireKey_work _ _ _).window
  · rfl
  · rfl

theorem State.gaugeWritten_window (g : ChannelId) (old new : GaugeCfg) (s : State) :
    (s.gaugeWritten g old new).lp.window = s.lp.window := by
  unfold State.gaugeWritten
  split
  · rfl
  · exact s.gaugeDisable_window g old
  · rw [State.gaugeWarningChanged_window, State.gaugeSenderChanged_window, State.gaugeDriveChanged_window]
  · rfl

theorem State.cascade_window (t : Table) (old : LiveConfig) (s : State) :
    (s.cascade t old).lp.window = s.lp.window := by
  have hgauges : (s.gaugesWritten old).lp.window = s.lp.window :=
    State.foldl_window (fun t g => t.gaugeWritten_window g _ _) _ s
  cases t with
  | circuit => rw [State.cascade]; exact State.foldl_window (fun t c => t.circuitWritten_window old c) _ s
  | binding => rw [State.cascade]; exact State.foldl_window (fun t n => (t.bindingWritten_work old n).window) _ s
  | lane => rw [State.cascade]; exact State.foldl_window (fun t side => (t.laneWritten_work old side).window) _ s
  | flash => exact (s.flashWritten_work old).window
  | gauge => exact hgauges
  | sender _ => exact hgauges
  | drive _ => exact hgauges
  | fan => exact s.fanWritten_window old
  | budget => exact (s.budgetWritten_work old).window
  | link => exact (s.linkWritten_work old).window
  | circuitState => rfl
  | gaugeState => rfl
  | demand => rfl

theorem State.applyStream_window (w : Window) (data : List Byte) (s : State) :
    (s.applyStream w data).1.lp.window = s.lp.window := by
  unfold State.applyStream
  split
  · rfl
  · split
    · exact State.cascade_window _ _ _
    · rfl

theorem State.writeStreamFrame_window (data : List Byte) (s : State) :
    (s.writeStreamFrame data).1.lp.window = s.lp.window := by
  have hbody : (s.writeStreamBody data).1.lp.window = s.lp.window := by
    unfold State.writeStreamBody
    split
    · rfl
    · split_ifs
      · rfl
      · rfl
      · rfl
      · rfl
      · exact s.applyStream_window _ data
  unfold State.writeStreamFrame
  split
  · exact hbody
  · rfl

/-! ### The status and store commands -/

theorem State.ackStatusBody_window (conditions : Half) (s : State) :
    (s.ackStatusBody conditions).1.lp.window = s.lp.window := by
  unfold State.ackStatusBody
  split <;> rfl

theorem State.saveJudged_window (lock : Bool) (s : State) : (s.saveJudged lock).1.lp.window = s.lp.window := by
  unfold State.saveJudged
  split_ifs <;> rfl

theorem State.eraseStoreBody_window (s : State) : s.eraseStoreBody.1.lp.window = s.lp.window := by
  unfold State.eraseStoreBody
  split_ifs <;> rfl

theorem State.savePage_window (d : PageDefects) (s : State) : (s.savePage d).lp.window = s.lp.window := by
  unfold State.savePage
  split <;> rfl

theorem State.endVerify_window (s : State) : s.endVerify.lp.window = s.lp.window :=
  LinkPort.raiseIf_window _ _ _

/-! ### Every command but SET-WINDOW and the resets -/

/-- A link command is a frame of its own code, executed by its rules (R149, R152). -/
theorem exec_of_commandCode {i : Instr} {code : Byte} (h : commandCode i = some code) (s : State) :
    exec i s = .next (s.frame code (State.execute i)) := by
  cases i <;> cases h <;> rfl

theorem State.execute_window {i : Instr} (hset : ∀ table first last, i ≠ .setWindow table first last)
    (hreset : i ≠ .reset) (s : State) : (s.execute i).1.lp.window = s.lp.window := by
  cases i with
  | place c intent level priority hold gated => exact s.placeBody_window c intent level priority hold gated
  | amend handle selection level priority hold => exact s.amendBody_window handle selection level priority hold
  | retire handle => exact s.retireBody_window handle
  | retireHostAll => exact s.retireHostAllBody_window
  | readDemand handle => exact congrArg (·.lp.window) (s.readDemandBody_state handle)
  | listCircuit c => exact congrArg (·.lp.window) (s.listCircuitBody_state c)
  | readCircuit c => exact congrArg (·.lp.window) (s.readCircuitBody_state c)
  | clearFault c => exact s.clearFaultBody_window c
  | flash lanes count => exact s.flashBody_window lanes count
  | flashStop => exact s.retireHostRequest_work.window
  | lampTest duration => exact s.lampTestBody_window duration
  | gaugeDirect channel reading => exact s.gaugeDirectBody_window channel reading
  | gaugeRelease channel => exact s.gaugeReleaseBody_window channel
  | readGauge channel => exact congrArg (·.lp.window) (s.readGaugeBody_state channel)
  | setWindow table first last => exact absurd rfl (hset table first last)
  | writeStream data => exact s.writeStreamFrame_window data
  | readStream => exact congrArg (·.lp.window) s.readStreamBody_state
  | ackStatus conditions => exact s.ackStatusBody_window conditions
  | save => exact s.saveJudged_window false
  | lockStore => exact s.saveJudged_window true
  | eraseStore => exact s.eraseStoreBody_window
  | reset => exact absurd rfl hreset
  | _ => rfl

/-- An event other than a reset, an erase and a frame leaves the window. -/
theorem exec_event_window {i : Instr} (hevent : commandCode i = none) (hpower : ∀ straps, i ≠ .powerOnReset straps)
    (hloss : i ≠ .powerLossOrResetAsserted) (herase : ∀ d, i ≠ .erasePageErased d)
    (hframe : ∀ address bytes, i ≠ .writeFrame address bytes) (s : State) :
    ∃ t, exec i s = .next t ∧ t.lp.window = s.lp.window := by
  cases i with
  | powerOnReset straps => exact absurd rfl (hpower straps)
  | writeFrame address bytes => exact absurd rfl (hframe address bytes)
  | erasePageErased d => exact absurd rfl (herase d)
  | powerLossOrResetAsserted => exact absurd rfl hloss
  | addressMatchWake address read => exact ⟨_, rfl, State.event_window (fun s => s.wake_work.window) _ s⟩
  | senseSample levels => exact ⟨_, rfl, State.event_window (fun s => (s.senseSample_work levels).window) _ s⟩
  | inputWake input => exact ⟨_, rfl, State.event_window (fun s => s.wake_work.window) _ s⟩
  | holdExpiry => exact ⟨_, rfl, State.event_window State.takeExpiry_window _ s⟩
  | inrushExpiry c => exact ⟨_, rfl, State.event_window (fun s => s.circuitEvent_window c _) _ s⟩
  | currentMeasurement c mean => exact ⟨_, rfl, State.event_window (fun s => s.circuitEvent_window c _) _ s⟩
  | retryExpiry c => exact ⟨_, rfl, State.event_window (fun s => s.circuitEvent_window c _) _ s⟩
  | quietTimeExpiry c => exact ⟨_, rfl, State.event_window (fun s => s.circuitEvent_window c _) _ s⟩
  | rampStep c => exact ⟨_, rfl, State.event_window (fun s => s.circuitEvent_window c _) _ s⟩
  | onPhaseExpiry => exact ⟨_, rfl, State.event_window (fun s => s.endOn_work.window) _ s⟩
  | offPhaseExpiry => exact ⟨_, rfl, State.event_window (fun s => s.endOff_work.window) _ s⟩
  | syncLineFall =>
    refine ⟨_, rfl, ?_⟩
    split
    · rfl
    · exact State.event_window (fun s => s.endOn_work.window) _ (s.wire true)
  | syncLineRise =>
    refine ⟨_, rfl, ?_⟩
    split
    · exact State.event_window (fun s => s.enterOn_work.window) _ (s.wire false)
    · rfl
  | waitSyncTimeout => exact ⟨_, rfl, State.event_window (fun s => s.abandonSync_work.window) _ s⟩
  | tickPulseEnd => exact ⟨_, rfl, State.event_window (fun s => s.endPulse_work.window) _ s⟩
  | senderConversion g code => exact ⟨_, rfl, State.event_window (fun s => (s.convert_work g code).window) _ s⟩
  | gaugeTick g => exact ⟨_, rfl, State.event_window (fun s => (s.gaugeTick_work g).window) _ s⟩
  | supplySample vsense csense =>
    exact ⟨_, rfl, State.event_window (fun s => (s.sampleBoth_work vsense csense).window) _ s⟩
  | evaluationTimerExpiry => exact ⟨_, rfl, State.event_window (fun s => s.evaluationTick_work.window) _ s⟩
  | sleepTimerExpiry => exact ⟨_, rfl, State.event_window (fun s => s.enterAsleep_work.window) _ s⟩
  | savePageProgrammed d => exact ⟨_, rfl, State.event_window (State.savePage_window d) _ s⟩
  | saveVerifyEnd => exact ⟨_, rfl, State.event_window State.endVerify_window _ s⟩
  | _ => cases hevent

/-! ### The judgement of SET-WINDOW (R155) -/

theorem Table.entries_pos (t : Table) : 0 < t.entries := by cases t <;> exact Nat.succ_pos _

/-- A last entry beyond the table's last is taken as the table's last. -/
theorem Table.clampedLast_eq (t : Table) (last : Nat) :
    min last (t.entries - 1) = if t.entries ≤ last then t.entries - 1 else last := by
  have hpos := t.entries_pos
  split <;> omega

theorem State.setWindowBody_of_no_table {table : Byte} (h : tableOf table = none) (first last : Byte) (s : State) :
    s.setWindowBody table first last = s.refused .badParameter := by
  unfold State.setWindowBody; rw [h]

section Judged

variable {table first last : Byte} {t : Table}

theorem State.setWindowBody_of_first_beyond (h : tableOf table = some t) (hfirst : t.entries ≤ first.toNat)
    (s : State) : s.setWindowBody table first last = s.refused .badParameter := by
  unfold State.setWindowBody
  rw [h]
  exact if_pos hfirst

theorem State.setWindowBody_of_crossed (h : tableOf table = some t) (hcrossed : last.toNat < first.toNat)
    (s : State) : s.setWindowBody table first last = s.refused .badParameter := by
  have hclamped : min last.toNat (t.entries - 1) < first.toNat := lt_of_le_of_lt (min_le_left _ _) hcrossed
  by_cases hfirst : t.entries ≤ first.toNat
  · exact State.setWindowBody_of_first_beyond h hfirst s
  · unfold State.setWindowBody
    rw [h]
    exact (if_neg hfirst).trans (if_pos hclamped)

theorem State.setWindowBody_of_ordered (h : tableOf table = some t) (hfirst : first.toNat < t.entries)
    (hordered : first.toNat ≤ last.toNat) (s : State) :
    s.setWindowBody table first last =
      (s.setWindow ⟨t, first.toNat, if t.entries ≤ last.toNat then t.entries - 1 else last.toNat⟩, Reply.ok) := by
  have hclamped : ¬ min last.toNat (t.entries - 1) < first.toNat := by omega
  rw [← t.clampedLast_eq]
  unfold State.setWindowBody
  rw [h]
  exact (if_neg hfirst.not_ge).trans (if_neg hclamped)

end Judged

/-! ### The resets (R154, R165, R172, R174) -/

theorem State.powerOn_window (straps : BitVec 2) (s : State) : (s.powerOn straps).lp.window = none := by
  unfold State.powerOn
  dsimp only
  split <;> rfl

/-- A software reset clears the window, and what the ignition and the first evaluation bring leaves it absent. -/
theorem State.restart_window (s : State) : s.restart.lp.window = none := by
  unfold State.restart
  rw [State.takeEvaluation_window, (State.formIgnition_work _ _).window, State.softReset_lp]
  rfl

/-- The end of an erase is a software reset (R172). -/
theorem State.endErase_window (s : State) : s.endErase.lp.window = none := by
  unfold State.endErase
  rw [State.answer_lp]
  exact State.restart_window _

theorem exec_reset_window {s t : State} (h : s.Ready) (hidle : s.cs.state = .idle) (ht : exec .reset s = .next t) :
    t.lp.window = none := by
  have hbody : s.resetBody = (s.restart, Reply.ok) := if_neg (not_not_intro hidle)
  have hframe : s.frame 0x90 State.resetBody = t := Host.Outcome.next.inj ht
  rw [← hframe, h.frame, State.answer_lp, hbody]
  exact (State.settle_window _).trans s.restart_window

/-- The end of page 31 is the end of the erase (R172). -/
theorem exec_erasePageErased_window {s t : State} {d : PageDefects} (hp : s.powered = true)
    (hstate : s.cs.state = .erasing 31) (ht : exec (.erasePageErased d) s = .next t) : t.lp.window = none := by
  have hdue : s.cs.state.erasingPage.isSome = true := by rw [hstate]; rfl
  have hlast : s.erasePage d = (s.pageErased 31 d).endErase := by
    unfold State.erasePage
    rw [hstate]
    rfl
  have hevent : s.event (fun s => s.cs.state.erasingPage.isSome) (State.erasePage d) = t := Host.Outcome.next.inj ht
  rw [← hevent, State.event_due hp hdue, State.settle_window, hlast, State.endErase_window]

/-! ### The window (R155) -/

/-- No command but SET-WINDOW, the resets, the loss of power and the erase moves the window; a frame is the command it
spells. -/
theorem exec_window {i : Instr} {s t : State} (ht : exec i s = .next t)
    (hset : ∀ table first last, i ≠ .setWindow table first last) (hreset : i ≠ .reset)
    (hpower : ∀ straps, i ≠ .powerOnReset straps) (hloss : i ≠ .powerLossOrResetAsserted)
    (herase : ∀ d, i ≠ .erasePageErased d) (hframe : ∀ address bytes, i ≠ .writeFrame address bytes) :
    t.lp.window = s.lp.window := by
  cases hcode : commandCode i with
  | none =>
    obtain ⟨u, hu, hwindow⟩ := exec_event_window hcode hpower hloss herase hframe s
    rw [← Host.Outcome.next.inj (hu.symm.trans ht), hwindow]
  | some code =>
    rw [← Host.Outcome.next.inj ((exec_of_commandCode hcode s).symm.trans ht)]
    exact State.frame_window (State.execute_window hset hreset) code s

/-- Settles O19: the judgements are the branches of SET-WINDOW's body, each reset ends on a cleared Link Port, and every
other command is a frame or an event whose rules leave the window. -/
theorem windowIsSetJudgedAndCleared : Obligations.WindowIsSetJudgedAndCleared := by
  refine ⟨fun s table first last h => ⟨fun hnone => ?_, fun t htable => ⟨fun hfirst => ?_, fun hcrossed => ?_,
    fun hfirst hordered => ?_⟩⟩, fun straps s t ht => ?_, fun s t => exec_reset_window,
    fun s t d => exec_erasePageErased_window, fun i s t => exec_window⟩
  · exact congrArg Host.Outcome.next (h.frame_still (State.setWindowBody_of_no_table hnone first last s))
  · exact congrArg Host.Outcome.next (h.frame_still (State.setWindowBody_of_first_beyond htable hfirst s))
  · exact congrArg Host.Outcome.next (h.frame_still (State.setWindowBody_of_crossed htable hcrossed s))
  · exact congrArg Host.Outcome.next
      (h.frame_to (t := s.setWindow _) h.settled (State.setWindowBody_of_ordered htable hfirst hordered s))
  · rw [← Host.Outcome.next.inj ht]
    exact s.powerOn_window straps

end Sys2Proof.Machine
end
